-- ==== Sys2Proof/Word.lean ====
section
/-! DEFINITION. The widths the manual treats as bits: the 32-bit word of both ports, the byte of shared memory, the 16-bit count of the converter, and the byte order of R188. -/

namespace Sys2Proof

/-- A word of the memory port and of the register port (00_scope.md, Signals). -/
abbrev Word := BitVec 32

/-- A byte of shared memory. -/
abbrev Byte := BitVec 8

/-- A 16-bit field of a record, and the count of one conversion (R46: 0-65535). -/
abbrev Half := BitVec 16

/-- A point index, 0-31 (R38). -/
abbrev PointId := Fin 32

/-- A point set: bit n stands for point n (13, Appendix). -/
abbrev PointSet := BitVec 32

end Sys2Proof
end

