-- ==== Sys2Proof/Syntax.lean ====
section
/-! DEFINITION. The commands of the block: one constructor per row of spec/opcode_table.json. -/

namespace Sys2Proof

/-- The registers whose writes are ignored (R177). -/
inductive IgnoredRegister where
  | ident | status | attention | faultAddr
  deriving DecidableEq, Repr

/-- How many expiries of the frame timer arrive inside the end of one frame, by the step of R119 that each follows
(the model's operand, log entry 28). -/
structure EndExpiries where
  /-- After step 1, the quiet judgment. -/
  judged : Nat
  /-- After step 2, the journal unit's part. -/
  told : Nat
  /-- After step 3, the merged count. -/
  counted : Nat
  /-- After step 4, the image. -/
  captured : Nat
  /-- After step 5, the frame boundary. -/
  announced : Nat
  /-- After step 6, with a boundary request that has waited for the frame's end applied, before one that the walker
  passed in the frame's last slot reaches the engine. -/
  unreached : Nat
  /-- After step 6, behind that request. -/
  left : Nat
  deriving DecidableEq, Repr

/-- No expiry arrives inside the frame's end. -/
def EndExpiries.zero : EndExpiries := { judged := 0, told := 0, counted := 0, captured := 0, announced := 0
                                        unreached := 0, left := 0 }

/-- An event of the scan engine that can report points to the output unit (R43). -/
inductive ScanEvent where
  /-- The slot's conversion completes with this count (R42), with these expiries inside the frames' ends that follow. -/
  | scanConversion (count : Half) (ends : List EndExpiries)
  /-- The frame timer expires (R112), with these expiries inside the frames' ends that follow. -/
  | frameExpiry (ends : List EndExpiries)
  /-- The boundary request that the walker holds is applied between frames (R121). -/
  | boundary
  /-- The stop order is given (R172). -/
  | stopOrder
  deriving DecidableEq, Repr

/-- A memory fault whose entry to FAULTED reaches the output unit together with the reports of an event of the scan
engine (R166): the event, and how many of its reports the output unit takes before the entry (the model's operand, log
entry 29). -/
structure FaultRace where
  event : ScanEvent
  taken : Nat
  deriving DecidableEq, Repr

/-- A command from outside the block, or one of the device's own indivisible steps (95_what_each_step_holds.md).
A register write carries its 32-bit data; a read completion carries the words memory answered with; a
conversion's completion carries its count. An event that has others inside it, or that races with another, carries those
(log entries 28 and 29). The fourteen request kinds carry nothing, since their
fields stand in the block the walker holds. -/
inductive Instr where
  /-- HARDWARE_RESET (R176). `heldLow`: RESETn stays low until RESETN_RISE; otherwise power-on or a whole pulse. -/
  | hardwareReset (heldLow : Bool)
  /-- SOFTWARE_RESET: a CONTROL write with RESET set (R176, R178). -/
  | softwareReset (data : Word)
  /-- RUN_SET: a CONTROL write with RUN 1 (R170, R178). -/
  | runSet (data : Word)
  /-- RUN_CLEAR: a CONTROL write with RUN 0 (R172, R178). -/
  | runClear (data : Word)
  /-- RESUME: a CONTROL write with RUN 1, taken in STOPPED (R174, R178). -/
  | resume (data : Word)
  /-- LOOK: a CONTROL write with LOOK set (R22, R178). -/
  | look (data : Word)
  /-- AREA_BASE_WRITE (R1). -/
  | areaBaseWrite (data : Word)
  /-- ATTN_ENABLE_WRITE (R183). -/
  | attnEnableWrite (data : Word)
  /-- ATTENTION_READ (R184). -/
  | attentionRead
  /-- SERVICE_WRITE, of any value (R185). -/
  | serviceWrite (data : Word)
  /-- IGNORED_REGISTER_WRITE (R177). -/
  | ignoredRegisterWrite (reg : IgnoredRegister) (data : Word)
  /-- HEADER_READ_COMPLETE: the host half as memory returned it, word by word (R2). -/
  | headerReadComplete (half : Vector Word 8)
  /-- ERROR_RESPONSE to the access on the interconnect (R12); `race`: an event of the scan engine whose reports reach the
  output unit together with the entry to FAULTED (R166). -/
  | errorResponse (race : Option FaultRace := none)
  /-- RESPONSE_LIMIT_EXPIRY of the access on the interconnect (R11); `race` as for ERROR_RESPONSE. -/
  | responseLimitExpiry (race : Option FaultRace := none)
  /-- LATE_RESPONSE to an access abandoned or timed out (R13). -/
  | lateResponse
  /-- LINK_READ_COMPLETE: the anchor's link as memory returned it (R24). -/
  | linkReadComplete (link : Word)
  /-- BLOCK_READ_COMPLETE: the linked block as memory returned it (R25). -/
  | blockReadComplete (block : Vector Word 16)
  /-- TAKEN_WRITE_COMPLETE (R25). -/
  | takenWriteComplete
  /-- RESULT_WRITE_COMPLETE (R18). -/
  | resultWriteComplete
  /-- CLOSED_WRITE_COMPLETE (R26). -/
  | closedWriteComplete
  /-- CONFIG_OUTPUT carried out by the output unit (R164). -/
  | configOutput
  /-- SET_OUTPUTS carried out by the output unit (R165). -/
  | setOutputs
  /-- GIVE_PAGES carried out by the journal unit (R140). -/
  | givePages
  /-- RECLAIM_PAGES carried out by the journal unit (R141). -/
  | reclaimPages
  /-- FLUSH_JOURNAL carried out by the journal unit (R142). -/
  | flushJournal
  /-- CONFIG_POINT reaches the scan engine (R50). -/
  | configPoint
  /-- RELEASE_POINT reaches the scan engine (R54). -/
  | releasePoint
  /-- CONFIG_GROUP reaches the scan engine (R99). -/
  | configGroup
  /-- SET_TIMING reaches the scan engine (R122). -/
  | setTiming
  /-- RECALIBRATE reaches the scan engine (R69). -/
  | recalibrate
  /-- RESEED reaches the scan engine (R93). -/
  | reseed
  /-- SNAPSHOT reaches the scan engine (R156). -/
  | snapshot
  /-- MARK reaches the scan engine (R143). -/
  | mark
  /-- SPOT: the hand-off question and the hand-over (R32). -/
  | spot
  /-- FRAME_TIMER_EXPIRY (R112); `ends`: the further expiries inside the ends of the frames that end in this event (R119). -/
  | frameTimerExpiry (ends : List EndExpiries := [])
  /-- SCAN_CONVERSION_COMPLETE with the converter's count (R42); `ends`: the expiries inside the ends of the frames that end
  in this event (R119). -/
  | scanConversionComplete (count : Half) (ends : List EndExpiries := [])
  /-- SPOT_SUBCONVERSION_COMPLETE with the converter's count (R151). -/
  | spotSubconversionComplete (count : Half)
  /-- SPOT_WRITE_COMPLETE (R152). -/
  | spotWriteComplete
  /-- SNAPSHOT_RECORD_WRITE_COMPLETE (R156). -/
  | snapshotRecordWriteComplete
  /-- JOURNAL_WRITE_COMPLETE (R133). -/
  | journalWriteComplete
  /-- LINGER_EXPIRY (R137). -/
  | lingerExpiry
  /-- MIRROR_WRITE_COMPLETE (R5). -/
  | mirrorWriteComplete
  /-- ENTER_STOPPED (R173). -/
  | enterStopped
  /-- RESETN_RISE (R176). -/
  | resetnRise
  /-- ACCEPTED_CONTROL_WRITE: a CONTROL write that repeats the stored RUN and carries no LOOK (R178). -/
  | acceptedControlWrite (data : Word)
  deriving DecidableEq, Repr

end Sys2Proof
end

