-- ==== Sys2Proof/Decode.lean ====
section
/-! DEFINITION. Which command a word of the opcode table's bits spells. No row of spec/opcode_table.json gives bits (every row's "fields" is empty and none has "fixed"), so no word spells a command (log entry 2). Beside it, the fields of a word written to CONTROL. -/

namespace Sys2Proof

/-- CONTROL bit 0 of a written word (13, Registers). -/
def Control.run (data : Word) : Bool := data.getLsbD 0

/-- CONTROL bit 1 of a written word. -/
def Control.look (data : Word) : Bool := data.getLsbD 1

/-- CONTROL bit 2 of a written word. -/
def Control.reset (data : Word) : Bool := data.getLsbD 2

/-- The command spelled by `w` in `nbits` bits: none, since the table gives no row any bits. -/
def decodeTableWord (_nbits _w : Nat) : Option Instr := none

end Sys2Proof
end

