-- ==== Sys2Proof/Config.lean ====
section
/-! DEFINITION. What the part fixes (its constants) and the values the manual leaves open (free values: constants with no body). -/

namespace Sys2Proof.Config

/-- IDENT: point count 32 in bits 0-7, revision 1 in bits 8-15, family code 0x0A31 in bits 16-31 (R177, 13 Registers). -/
def ident : Word := 0x0A310120#32

/-- The area signature a valid header carries (R2). -/
def areaSignature : Word := 0x53503332#32

/-- The layout version a valid header carries (R2). -/
def layoutVersion : Word := 1#32

/-- The brisk period in ms when the header's value lies outside 1-1000, and after reset (R3, R108). -/
def defaultBrisk : Nat := 20

/-- The drowsy period in ms after reset (R108). -/
def defaultDrowsy : Nat := 200

/-- Most pages in the page queue (R126). -/
def queueLimit : Nat := 16

/-- Bytes of a page's record area (08, Pages). -/
def recordArea : Nat := 4064

/-- FREE VALUE (log entry 8). Which words of a burst that faulted or was abandoned memory had
accepted: R12 says only that memory holds whatever it accepted. Drawn with the state's tick; bit i
stands for word i of the burst. -/
opaque acceptedWords : Nat → BitVec 16

/-- FREE VALUE (log entry 9). The order in which the port receives accesses that several agents issue
at the same moment: R9 says that either may be received first. Drawn with the state's tick; the number
codes a permutation. -/
opaque receiveOrder : Nat → Nat

/-- FREE VALUE (log entry 27). Whether the port, idle when an event of the scan engine began, has placed the mirror image
issued in that event on the interconnect by the time of a later capture in the same event (R5, R9). Drawn with the state's
tick. -/
opaque imagePlaced : Nat → Bool

end Sys2Proof.Config
end

