-- ==== Sys2Proof/Machine/State.lean ====
section
/-! DEFINITION. The state of the block, unit by unit as 00_scope.md's Functional blocks divide it, and the state after hardware reset. -/

namespace Sys2Proof.Machine

/-! ### Why a step can stop -/

/-- Why the model stops with a fault: never. The part's own memory fault is a state of the part (FAULTED,
R12), and the spec gives every command an effect, so there is no constructor. Safe: nothing raises one. -/
inductive Fault where
  deriving DecidableEq, Repr

/-- Why the model refuses a command. -/
inductive Refusal where
  /-- Raised by an arm of `exec` that has no meaning yet, and by nothing else; safe (the model stops). -/
  | notModelled (mnemonic : String)
  deriving DecidableEq, Repr

/-! ### Control unit -/

/-- The six operating states (R169). -/
inductive OpState where
  | off | loading | running | stopping | stopped | faulted
  deriving DecidableEq, Repr

/-- The fault kind STATUS shows (R12, R179). -/
inductive FaultKind where
  | none | memError | memTimeout
  deriving DecidableEq, Repr

/-- The control unit's own state: operating state (R169), stored RUN (R178), refused-write flag (R179), AREA_BASE
(R1), fault kind and FAULT_ADDR (R12, R180), and whether RESETn is held low (R176). -/
structure ControlUnit where
  op : OpState
  run : Bool
  refusedWrite : Bool
  areaBase : Word
  faultKind : FaultKind
  faultAddr : Word
  resetHeld : Bool
  deriving DecidableEq, Repr

/-! ### Memory port -/

/-- The units that issue accesses (R7). -/
inductive Agent where
  | walker | journal | spot | mirror
  deriving DecidableEq, Repr

/-- Which step of which agent an access belongs to (R7). -/
inductive AccessKind where
  | headerRead | linkRead | blockRead | takenWrite | resultWrite | closedWrite
  | spotWrite | snapshotWrite | journalWrite | mirrorWrite
  deriving DecidableEq, Repr

/-- One access (R8): the address of its first word, and for a write its words in ascending address order
(a read has none). -/
structure Access where
  kind : AccessKind
  addr : Word
  data : List Word
  deriving DecidableEq, Repr

/-! ### Chain walker -/

/-- The result codes (R29). -/
inductive ResultCode where
  | done | badKind | badParam | wrongOwner | poolFull | groupConflict | pointDisabled | pointBusy
  | markBusy | superseded | aborted
  deriving DecidableEq, Repr

/-- The copy of a block the walker has read, with the block's address (R16, R20). -/
structure Held where
  addr : Word
  block : Vector Word 16
  deriving DecidableEq, Repr

/-- What is written into a block with its result: code, value, and the parameter words that follow (R18). -/
structure Answer where
  code : ResultCode
  value : Word
  params : List Word
  deriving DecidableEq, Repr

/-- How far the boundary request in AWAITING_BOUNDARY has come (R31). -/
inductive BoundaryPhase where
  /-- The walker has passed it to the scan engine, and it has not reached the engine. -/
  | passed
  /-- It has reached the engine inside a frame and waits for that frame's end (R121). -/
  | waits
  /-- The engine has applied it and it waits for the spot unit (SNAPSHOT, R156). -/
  | applied
  deriving DecidableEq, Repr

/-- The walker's six states (R20), split by the step each is in. FETCHING is `fetchLink`, `fetchBlock` and
`fetchTaken`; WORKING is `workingUnit` (not yet answered or handed over), `workingFlush` (a FLUSH_JOURNAL
waiting for a close, R142) and `workingSpot` (a SPOT handed over and not yet accepted, R32);
AWAITING_BOUNDARY holds how far the request has come; CLOSING is the result write and then the CLOSED write (R18). -/
inductive WalkerState where
  | idle
  | resting
  | fetchLink
  | fetchBlock (addr : Word)
  | fetchTaken (h : Held)
  | workingUnit (h : Held)
  | workingFlush (h : Held)
  | workingSpot (h : Held)
  | awaiting (h : Held) (phase : BoundaryPhase)
  | closingResult (h : Held) (a : Answer)
  | closingStatus (h : Held) (a : Answer)
  deriving DecidableEq, Repr

/-- What the walker rests on (R20, R21, R26). -/
inductive Anchor where
  | none
  | header
  | block (addr : Word)
  deriving DecidableEq, Repr

/-- The chain walker (R20). -/
structure Walker where
  state : WalkerState
  anchor : Anchor
  pendingLook : Bool
  badLink : Bool
  deriving DecidableEq, Repr

/-! ### Scan engine -/

/-- The seven point states (R41). -/
inductive PointState where
  | disabled | calibrating | idle | entering | engaged | leaving | fault
  deriving DecidableEq, Repr

/-- The fault cause of a point (R40). -/
inductive FaultCause where
  | none | saturated | calFail
  deriving DecidableEq, Repr

/-- The calibration mode setting (R39, R57). -/
inductive CalMode where
  | none | offset | full
  deriving DecidableEq, Repr

/-- The calibration phase (R58). -/
inductive CalPhase where
  | none | coarse | fine | offset | verify
  deriving DecidableEq, Repr

/-- The direction setting (R39, R76). -/
inductive Direction where
  | rising | falling | either
  deriving DecidableEq, Repr

/-- The tuning of a conversion: coarse 0-15, fine 0-31, offset 0-1023 (R40). -/
structure Tuning where
  coarse : BitVec 4
  fine : BitVec 5
  offset : BitVec 10
  deriving DecidableEq, Repr

/-- A point's settings (R39). -/
structure Settings where
  integration : Nat
  calMode : CalMode
  calTarget : Nat
  calBand : Nat
  gains : Tuning
  direction : Direction
  threshold : Nat
  hysteresis : Nat
  enterDebounce : Nat
  exitDebounce : Nat
  slowBeta : Nat
  fastBeta : Nat
  stuckLimit : Nat
  autoRecalibrate : Bool
  urgent : Bool
  verbose : Bool
  deriving DecidableEq, Repr

/-- The settings after either reset: each at the first value of its range (R39). -/
def Settings.reset : Settings :=
  { integration := 1, calMode := .none, calTarget := 64, calBand := 1, gains := ⟨0, 0, 0⟩, direction := .rising,
    threshold := 1, hysteresis := 0, enterDebounce := 0, exitDebounce := 0, slowBeta := 1, fastBeta := 1,
    stuckLimit := 0, autoRecalibrate := false, urgent := false, verbose := false }

/-- One record of the point table (R38-R40). `baseline` is in units of 1/256 count (R85). -/
structure Point where
  cfg : Settings
  state : PointState
  faultCause : FaultCause
  lastCount : Half
  baseline : Nat
  lastRawDelta : Int
  lastDelta : Int
  debounce : Nat
  stuck : Nat
  calPhase : CalPhase
  calStep : Nat
  tuning : Tuning
  armedReseed : Bool
  armedRecal : Bool
  seedPending : Bool
  spotBusy : Bool
  deriving DecidableEq, Repr

/-- A point after either reset (R39, R40). -/
def Point.reset : Point :=
  { cfg := Settings.reset, state := .disabled, faultCause := .none, lastCount := 0, baseline := 0, lastRawDelta := 0,
    lastDelta := 0, debounce := 0, stuck := 0, calPhase := .none, calStep := 0, tuning := ⟨0, 0, 0⟩,
    armedReseed := false, armedRecal := false, seedPending := false, spotBusy := false }

/-- One group record (R96). -/
structure Group where
  members : PointSet
  reference : Option PointId
  weight : Nat
  halt : Bool
  deriving DecidableEq, Repr

/-- A cleared group (R96). -/
def Group.reset : Group := { members := 0, reference := none, weight := 0, halt := false }

/-- The timing settings, in ms and frames (R108). -/
structure Timing where
  brisk : Nat
  drowsy : Nat
  drowsyAfter : Nat
  linger : Nat
  deriving DecidableEq, Repr

/-- The timing settings after either reset (R108). -/
def Timing.reset : Timing :=
  { brisk := Config.defaultBrisk, drowsy := Config.defaultDrowsy, drowsyAfter := 0, linger := 0 }

/-- The four frame states (R111). -/
inductive FrameState where
  | parked | waiting | scanning | cutting
  deriving DecidableEq, Repr

/-- The scan rates (R120). -/
inductive ScanRate where
  | brisk | drowsy
  deriving DecidableEq, Repr

/-- An armed mark (R143). -/
structure MarkSlot where
  tag : Half
  addr : Word
  deriving DecidableEq, Repr

/-- The scan engine. `frameTimer` is the period of the interval running, none when the timer is stopped (R109);
`slot` is the point whose slot of the frame in progress waits for its conversion (R42, R118). -/
structure ScanEngine where
  points : Vector Point 32
  groups : Vector Group 4
  timing : Timing
  frameTimer : Option Nat
  frameNumber : Word
  frameInProgress : Word
  frameState : FrameState
  startPending : Bool
  merged : Word
  gap : Word
  rate : ScanRate
  quiet : Nat
  mark : Option MarkSlot
  slot : Option PointId
  deriving DecidableEq, Repr

/-- The scan engine after either reset (R40, R96, R108, R124, R143). -/
def ScanEngine.reset : ScanEngine :=
  { points := Vector.replicate 32 Point.reset, groups := Vector.replicate 4 Group.reset, timing := Timing.reset,
    frameTimer := none, frameNumber := 0, frameInProgress := 0, frameState := .parked, startPending := false,
    merged := 0, gap := 0, rate := .brisk, quiet := 0, mark := none, slot := none }

/-! ### Converter and arbiter -/

/-- The values a conversion takes at its grant (R45). -/
structure Conversion where
  integration : Nat
  tuning : Tuning
  deriving DecidableEq, Repr

/-- Who holds the converter (R47), with the values of the conversion running. -/
inductive Grant where
  | free
  | scan (c : Conversion)
  | spot (c : Conversion)
  deriving DecidableEq, Repr

/-- The converter arbiter: the grant and the waiting requests, one place for each requester (R47). A scan
request is for the point of the slot in progress, a spot request for the point of the held spot. -/
structure Arbiter where
  grant : Grant
  scanWaits : Bool
  spotWaits : Bool
  deriving DecidableEq, Repr

/-! ### Journal unit -/

/-- The closing causes (R127). -/
inductive CloseCause where
  | full | linger | flush
  deriving DecidableEq, Repr

/-- The page in the open-page slot (R125); `grew` is the mark that the frame in progress has appended to it (R134). -/
structure OpenPage where
  addr : Word
  sequence : Word
  count : Nat
  used : Nat
  firstRecord : Word
  firstFrame : Word
  grew : Bool
  deriving DecidableEq, Repr

/-- The close-at-frame-end mark (R125, R134). -/
inductive CloseMark where
  | none | linger | flush
  deriving DecidableEq, Repr

/-- What a completed CLOSED header write brings about (R135, R142). -/
structure Closing where
  sequence : Word
  cause : CloseCause
  deriving DecidableEq, Repr

/-- One write of the journal unit's write list (R133); `closes` is set for a CLOSED header. -/
structure JournalWrite where
  addr : Word
  data : List Word
  closes : Option Closing
  deriving DecidableEq, Repr

/-- The journal unit (R125). -/
structure Journal where
  queue : List Word
  page : Option OpenPage
  recordSeq : Word
  pageSeq : Word
  lingerTimer : Option Nat
  closeMark : CloseMark
  frameOpen : Bool
  starved : Bool
  writes : List JournalWrite
  linger : Nat
  deriving DecidableEq, Repr

/-- The journal unit after either reset (R125, R147). -/
def Journal.reset : Journal :=
  { queue := [], page := none, recordSeq := 0, pageSeq := 0, lingerTimer := none, closeMark := .none, frameOpen := false,
    starved := false, writes := [], linger := 0 }

/-! ### Spot unit -/

/-- A held spot (R148). -/
structure SpotHeld where
  addr : Word
  point : PointId
  multiplier : Nat
  flags : Byte
  tag : Half
  deriving DecidableEq, Repr

/-- The sums of a CONVERTING spot (R148, R151). -/
structure SpotSums where
  done : Nat
  sum : Nat
  least : Half
  greatest : Half
  saturated : Nat
  deriving DecidableEq, Repr

/-- The spot states (R148). A CONVERTING spot also holds the order that ends it when the running
sub-conversion completes (R53, R153, R154). -/
inductive SpotState where
  | empty
  | queued (h : SpotHeld)
  | converting (h : SpotHeld) (sums : SpotSums) (ending : Option ResultCode)
  | closing (h : SpotHeld) (code : ResultCode)
  deriving DecidableEq, Repr

/-- What a write of the spot unit is (R152, R156). -/
inductive SpotWriteKind where
  | result | closed | snapshotRecord
  deriving DecidableEq, Repr

/-- One write of the spot unit's write list (R148). -/
structure SpotWrite where
  kind : SpotWriteKind
  addr : Word
  data : List Word
  deriving DecidableEq, Repr

/-- A snapshot in progress: the records handed over and how many are not yet written (R148, R156). The copies
themselves are the data of the writes on the write list. -/
structure SnapshotJob where
  total : Nat
  left : Nat
  deriving DecidableEq, Repr

/-- The spot unit (R148). -/
structure SpotUnit where
  state : SpotState
  writes : List SpotWrite
  snapshot : Option SnapshotJob
  deriving DecidableEq, Repr

/-! ### Mirror writer -/

/-- A mirror image (R4). -/
structure Image where
  frameNumber : Word
  lastRecord : Word
  openPage : Word
  anchor : Word
  gap : Word
  pagesQueued : Nat
  rate : ScanRate
  starved : Bool
  deriving DecidableEq, Repr

/-- The mirror write in progress, and whether its image was captured at entry to STOPPED (R5, R6). -/
structure MirrorWrite where
  image : Image
  atStop : Bool
  deriving DecidableEq, Repr

/-- What stands on the interconnect while an event of the scan engine is carried out, the model's own item (log entry 27): an
image that is not yet on it can still be replaced (R5; 12, Starvation, merged expiries and the GAP record). -/
inductive MirrorDuring where
  | /-- No such event is carried out. -/ between
  | /-- The port held no access when the event began: which of the event's it has placed is open. -/ idle
  | /-- The image whose write is in progress. -/ image
  | /-- An access of another agent. -/ other
  deriving DecidableEq, Repr

/-- The mirror writer (R5). `writing` is the image issued to the port, `waiting` the one behind it, and `during` the model's
own item, `between` whenever no event of the scan engine is carried out. -/
structure Mirror where
  writing : Option MirrorWrite
  waiting : Option Image
  during : MirrorDuring
  deriving DecidableEq, Repr

/-! ### Output unit -/

/-- Line owners (R159). -/
inductive Owner where
  | direct | linked
  deriving DecidableEq, Repr

/-- Line drives (R159, R162). -/
inductive Drive where
  | off | pushPullHigh | openDrainLow
  deriving DecidableEq, Repr

/-- Line fault levels (R159, R166). -/
inductive FaultLevel where
  | hold | inactive | active
  deriving DecidableEq, Repr

/-- The link states of a line, any subset of the three (R159). -/
structure LinkStates where
  onEngaged : Bool
  onFault : Bool
  onCalibrating : Bool
  deriving DecidableEq, Repr

/-- One line record (R159); `level` is true when active. -/
structure Line where
  owner : Owner
  drive : Drive
  linkSet : PointSet
  linkStates : LinkStates
  faultLevel : FaultLevel
  level : Bool
  deriving DecidableEq, Repr

/-- A line after either reset (R159). -/
def Line.reset : Line :=
  { owner := .direct, drive := .off, linkSet := 0, linkStates := ⟨false, false, false⟩, faultLevel := .hold, level := false }

/-- The output unit: line records (R159) and its view of the points (R160); `entryAfter` is the model's own field, how many
more reports the unit takes before an entry to FAULTED that reaches it together with them, none while no entry does (R166,
log entry 29). -/
structure OutputUnit where
  lines : Vector Line 8
  view : Vector PointState 32
  entryAfter : Option Nat
  deriving DecidableEq, Repr

/-- The output unit after either reset (R159, R160). -/
def OutputUnit.reset : OutputUnit :=
  { lines := Vector.replicate 8 Line.reset, view := Vector.replicate 32 .disabled, entryAfter := none }

/-! ### Attention unit -/

/-- The four attention classes, highest priority first (R181). -/
inductive AttnClass where
  | fault | trip | journal | chain
  deriving DecidableEq, Repr

/-- One class: pending flag and cause set (R181), in service (R184), enable (R183). Bit i of `causes` is bit 8 + i
of the class's attention vector (13, Registers). -/
structure ClassAttn where
  pending : Bool
  causes : BitVec 3
  inService : Bool
  enabled : Bool
  deriving DecidableEq, Repr

/-- A class after hardware reset (R186, R183). -/
def ClassAttn.reset : ClassAttn := { pending := false, causes := 0, inService := false, enabled := false }

/-- The kind of cause that gave TRIP its index (R182). -/
inductive TripKind where
  | engaged | pointFault
  deriving DecidableEq, Repr

/-- TRIP's point index when it is not none (R182). -/
structure TripIndex where
  point : PointId
  kind : TripKind
  deriving DecidableEq, Repr

/-- The attention unit (R181, R182). -/
structure Attention where
  fault : ClassAttn
  trip : ClassAttn
  journal : ClassAttn
  chain : ClassAttn
  tripIndex : Option TripIndex
  deriving DecidableEq, Repr

/-- The attention unit after hardware reset (R186). -/
def Attention.reset : Attention :=
  { fault := .reset, trip := .reset, journal := .reset, chain := .reset, tripIndex := none }

/-! ### The whole block -/

/-- The state of the block. `port` holds the accesses the port has received, oldest first; the first is the
one on the interconnect (R9). `mem` holds the bytes the device's writes have put into shared memory,
addresses strictly rising (log entry 7). `readData` is what the register port returned at the last
ATTENTION read (log entry 6), `tick` numbers the free values drawn (log entries 8 and 9), and `pending`
is the queue of commands (log entry 1); these three are the model's own. -/
structure State where
  ctl : ControlUnit
  port : List Access
  wk : Walker
  eng : ScanEngine
  arb : Arbiter
  jrn : Journal
  spt : SpotUnit
  mir : Mirror
  out : OutputUnit
  atn : Attention
  mem : List Host.Cell
  readData : Word
  tick : Nat
  pending : List Instr
  deriving DecidableEq, Repr

/-- The block right after hardware reset with RESETn high (R176 and each unit's own reset rule). -/
def State.reset : State :=
  { ctl := { op := .off, run := false, refusedWrite := false, areaBase := 0, faultKind := .none, faultAddr := 0,
             resetHeld := false }
    port := []
    wk := { state := .idle, anchor := .none, pendingLook := false, badLink := false }
    eng := ScanEngine.reset
    arb := { grant := .free, scanWaits := false, spotWaits := false }
    jrn := Journal.reset
    spt := { state := .empty, writes := [], snapshot := none }
    mir := { writing := none, waiting := none, during := .between }
    out := OutputUnit.reset
    atn := Attention.reset
    mem := []
    readData := 0x00FF0000#32
    tick := 0
    pending := [] }

end Sys2Proof.Machine
end

