-- ==== Sys2Proof/Machine/Formats.lean ====
section
/-! DEFINITION. The byte layouts of 13_appendix_format_tables.md: how words are cut into bytes (little-endian, R188), the codes, and every record the device writes. Reserved bytes are written zero. -/

namespace Sys2Proof.Machine

/-! ### Words, halves and bytes -/

/-- Byte `k` of a word, byte 0 at the lowest address (R188). -/
def byteOf (w : Word) (k : Nat) : Byte := w.extractLsb' (8 * k) 8

/-- Half `k` of a word, half 0 at the lower address. -/
def halfOf (w : Word) (k : Nat) : Half := w.extractLsb' (16 * k) 16

/-- The word whose bytes are `b0` to `b3` in ascending address order. -/
def ofBytes (b0 b1 b2 b3 : Byte) : Word := b3 ++ b2 ++ b1 ++ b0

/-- The word whose halves are `h0` and `h1` in ascending address order. -/
def ofHalves (h0 h1 : Half) : Word := h1 ++ h0

/-- A small number as a byte field. -/
def byteField (n : Nat) : Byte := BitVec.ofNat 8 n

/-- A number as a 16-bit field. -/
def halfField (n : Nat) : Half := BitVec.ofNat 16 n

/-- The byte of a yes/no or on/off field (13, Codes). -/
def boolByte (b : Bool) : Byte := if b then 1 else 0

/-- A signed value as a 32-bit two's complement field (13, Appendix). -/
def signedField (i : Int) : Word := BitVec.ofInt 32 i

/-! ### Codes the device writes (13, Codes) -/

/-- Result codes. -/
def ResultCode.code : ResultCode → Half
  | .done => 0
  | .badKind => 1
  | .badParam => 2
  | .wrongOwner => 3
  | .poolFull => 4
  | .groupConflict => 5
  | .pointDisabled => 6
  | .pointBusy => 7
  | .markBusy => 8
  | .superseded => 9
  | .aborted => 10

/-- Point states. -/
def PointState.code : PointState → BitVec 3
  | .disabled => 0
  | .calibrating => 1
  | .idle => 2
  | .entering => 3
  | .engaged => 4
  | .leaving => 5
  | .fault => 6

/-- Fault causes. -/
def FaultCause.code : FaultCause → Byte
  | .none => 0
  | .saturated => 1
  | .calFail => 2

/-- Calibration phases. -/
def CalPhase.code : CalPhase → Byte
  | .none => 0
  | .coarse => 1
  | .fine => 2
  | .offset => 3
  | .verify => 4

/-- Closing causes (13, Page header). -/
def CloseCause.code : CloseCause → Byte
  | .full => 1
  | .linger => 2
  | .flush => 3

/-- Scan rates (13, Exchange area). -/
def ScanRate.code : ScanRate → Byte
  | .brisk => 0
  | .drowsy => 1

/-! ### Request blocks -/

/-- Word `i` of a block. -/
def blockWord (b : Vector Word 16) (i : Nat) : Word := b.toList.getD i 0

/-- The 32-bit field at byte offset `off` of a block. -/
def blockField (b : Vector Word 16) (off : Nat) : Word := blockWord b (off / 4)

/-- The 16-bit field at byte offset `off` of a block. -/
def blockHalf (b : Vector Word 16) (off : Nat) : Half := halfOf (blockWord b (off / 4)) (off % 4 / 2)

/-- The byte at offset `off` of a block. -/
def blockByte (b : Vector Word 16) (off : Nat) : Byte := byteOf (blockWord b (off / 4)) (off % 4)

/-- The code of status PENDING. -/
def pendingCode : Byte := 2

/-- The status word with status TAKEN or CLOSED: kind and flags are written back, byte 7 is reserved (R18, R188). -/
def statusWord (status kind flags : Byte) : Word := ofBytes status kind flags 0

/-- Status TAKEN of a block the walker has read (R18). -/
def takenWord (b : Vector Word 16) : Word := statusWord 3 (blockByte b 5) (blockByte b 6)

/-- Status CLOSED of a block the walker has read (R18). -/
def closedWord (b : Vector Word 16) : Word := statusWord 4 (blockByte b 5) (blockByte b 6)

/-- The words of a result access, from offset 8: tag written back with the result code, the result value,
and the parameter results (R18, 13 Request block). -/
def resultWords (tag : Half) (code : ResultCode) (value : Word) (params : List Word) : List Word :=
  ofHalves tag code.code :: value :: params

/-- NOTIFY is bit 0 of the flags (R19). -/
def notifyBit (flags : Byte) : Bool := flags.getLsbD 0

/-- The parameter results of a RECLAIM_PAGES: eight page addresses and the pages remaining (R141). -/
def reclaimParams (pages : List Word) (remaining : Nat) : List Word :=
  (pages ++ List.replicate (8 - pages.length) 0) ++ [BitVec.ofNat 32 remaining]

/-- The mean of a spot in units of 1/256, rounded toward zero (R152). -/
def spotMean (sums : SpotSums) (multiplier : Nat) : Nat := sums.sum * 256 / multiplier

/-- The parameter results of a SPOT that ended DONE, offsets 16 to 27 (R152). -/
def spotParams (sums : SpotSums) (multiplier : Nat) : List Word :=
  [BitVec.ofNat 32 (spotMean sums multiplier), ofHalves sums.least sums.greatest,
   ofBytes (byteField sums.done) (byteField sums.saturated) 0 0]

/-! ### Journal pages and records -/

/-- The record kinds, with what the appendix calls them (R129). -/
inductive RecordKind where
  | engage | disengage | reseed | calStart | calDone | calFail | saturated | gap | mark
  deriving DecidableEq, Repr

/-- Record kind codes (13, Codes). -/
def RecordKind.code : RecordKind → BitVec 4
  | .engage => 1
  | .disengage => 2
  | .reseed => 3
  | .calStart => 4
  | .calDone => 5
  | .calFail => 6
  | .saturated => 7
  | .gap => 8
  | .mark => 9

/-- A journal record's contents without its sequence and frame number, which the append gives it
(R129). `who` is the point and its new state, none for GAP and MARK; `delta` is the delta field as
stored; the rest is written in the long form only. -/
structure Record where
  kind : RecordKind
  long : Bool
  who : Option (PointId × PointState)
  detail : Half
  delta : Word
  baseline : Nat
  count : Half
  tuning : Tuning
  stuck : Nat
  deriving DecidableEq, Repr

/-- A record's size in bytes (R129). -/
def Record.size (r : Record) : Nat := if r.long then 32 else 16

/-- Byte 1 of a record: point index in bits 0-4 and new state in bits 5-7, or 0xFF (13, Journal records). -/
def whoByte : Option (PointId × PointState) → Byte
  | none => 0xFF
  | some (p, st) => st.code ++ BitVec.ofNat 5 p.val

/-- The words of a record (13, Journal records). -/
def Record.words (r : Record) (sequence frame : Word) : List Word :=
  let form : BitVec 1 := if r.long then 1 else 0
  let b0 : Byte := form ++ (0 : BitVec 3) ++ r.kind.code
  [ofHalves (whoByte r.who ++ b0) r.detail, r.delta, sequence, frame] ++
    if r.long then
      [BitVec.ofNat 32 r.baseline,
       ofHalves r.count ((byteField r.tuning.fine.toNat) ++ (byteField r.tuning.coarse.toNat)),
       ofHalves (r.tuning.offset.setWidth 16) (halfField r.stuck), 0]
    else []

/-- The words of a page header (R127, 13 Page header); `closing` is none while the state is OPEN. -/
def pageHeader (p : OpenPage) (closing : Option CloseCause) : List Word :=
  let state : Byte := match closing with
    | none => 1
    | some _ => 2
  let cause : Byte := match closing with
    | none => 0
    | some c => c.code
  [ofHalves (cause ++ state) (halfField p.count), ofHalves (halfField p.used) 0, p.sequence, p.firstRecord,
   p.firstFrame, 0, 0, 0]

/-! ### Mirror image and snapshot record -/

/-- The eight words of the device half (R4, 13 Exchange area). -/
def Image.words (i : Image) : List Word :=
  [i.frameNumber, i.lastRecord, i.openPage, i.anchor, i.gap,
   ofBytes (byteField i.pagesQueued) i.rate.code (boolByte i.starved) 0, 0, 0]

/-- The eight words of a snapshot record (R157, 13 Snapshot record). -/
def snapshotWords (p : PointId) (pt : Point) (group : Option (Fin 4)) : List Word :=
  let groupByte : Byte := match group with
    | none => 0xFF
    | some g => byteField g.val
  let flags : BitVec 4 :=
    BitVec.ofBool pt.spotBusy ++ BitVec.ofBool pt.seedPending ++ BitVec.ofBool pt.armedRecal ++ BitVec.ofBool pt.armedReseed
  [ofBytes (byteField p.val) (pt.state.code.setWidth 8) pt.faultCause.code groupByte,
   ofHalves pt.lastCount (halfField pt.stuck),
   BitVec.ofNat 32 pt.baseline,
   signedField pt.lastRawDelta,
   signedField pt.lastDelta,
   ofHalves ((byteField pt.tuning.fine.toNat) ++ (byteField pt.tuning.coarse.toNat)) (pt.tuning.offset.setWidth 16),
   ofHalves ((byteField pt.cfg.gains.fine.toNat) ++ (byteField pt.cfg.gains.coarse.toNat)) (pt.cfg.gains.offset.setWidth 16),
   ofBytes (byteField pt.debounce) pt.calPhase.code (byteField pt.calStep) (flags.setWidth 8)]

end Sys2Proof.Machine
end

