-- ==== Sys2Proof/Machine/Flags.lean ====
section
/-! DEFINITION. Everything the device shows that is worked out from its state: attention eligibility, ATTN and the attention vector, STATUS and the other register reads, wanted line levels and the OUT pins. -/

namespace Sys2Proof.Machine

/-! ### Attention -/

/-- The state of one class. -/
def Attention.cls (a : Attention) : AttnClass → ClassAttn
  | .fault => a.fault
  | .trip => a.trip
  | .journal => a.journal
  | .chain => a.chain

/-- The attention unit with one class replaced. -/
def Attention.setCls (a : Attention) (c : AttnClass) (x : ClassAttn) : Attention :=
  match c with
  | .fault => { a with fault := x }
  | .trip => { a with trip := x }
  | .journal => { a with journal := x }
  | .chain => { a with chain := x }

/-- The classes, highest priority first (R181). -/
def AttnClass.all : List AttnClass := [.fault, .trip, .journal, .chain]

/-- A class of this or a higher priority is in service. -/
def Attention.blocked (a : Attention) : AttnClass → Bool
  | .fault => a.fault.inService
  | .trip => a.fault.inService || a.trip.inService
  | .journal => a.fault.inService || a.trip.inService || a.journal.inService
  | .chain => a.fault.inService || a.trip.inService || a.journal.inService || a.chain.inService

/-- Eligible: pending, enabled, and of higher priority than every class in service (R183). -/
def Attention.eligible (a : Attention) (c : AttnClass) : Bool :=
  (a.cls c).pending && (a.cls c).enabled && !a.blocked c

/-- The highest-priority eligible class (R184). -/
def Attention.highest (a : Attention) : Option AttnClass := AttnClass.all.find? a.eligible

/-- The highest-priority class in service (R185). -/
def Attention.serving (a : Attention) : Option AttnClass := AttnClass.all.find? fun c => (a.cls c).inService

/-- The ATTN output: high exactly when some class is eligible (R183). -/
def Attention.attn (a : Attention) : Bool := a.highest.isSome

/-- The class code of the attention vector (13, Registers). -/
def AttnClass.code : AttnClass → BitVec 3
  | .fault => 1
  | .trip => 2
  | .journal => 3
  | .chain => 4

/-- The NONE vector (13, Registers). -/
def noneVector : Word := 0x00FF0000#32

/-- The attention vector of a class: class in bits 0-2, cause set in bits 8-10, TRIP's point index in bits
16-23, 0xFF for none (R184, 13 Registers). -/
def Attention.vector (a : Attention) (c : AttnClass) : Word :=
  let index : Byte := match c, a.tripIndex with
    | .trip, some t => byteField t.point.val
    | _, _ => 0xFF
  ofBytes (c.code.setWidth 8) ((a.cls c).causes.setWidth 8) index 0

/-! ### Register reads (R177, R179; 13 Registers) -/

/-- Operating state codes. -/
def OpState.code : OpState → BitVec 3
  | .off => 0
  | .loading => 1
  | .running => 2
  | .stopping => 3
  | .stopped => 4
  | .faulted => 5

/-- Walker state codes, over the steps of each state (R20). -/
def WalkerState.code : WalkerState → BitVec 3
  | .idle => 0
  | .resting => 1
  | .fetchLink => 2
  | .fetchBlock _ => 2
  | .fetchTaken _ => 2
  | .workingUnit _ => 3
  | .workingFlush _ => 3
  | .workingSpot _ => 3
  | .awaiting _ _ => 4
  | .closingResult _ _ => 5
  | .closingStatus _ _ => 5

/-- Fault kind codes. -/
def FaultKind.code : FaultKind → BitVec 2
  | .none => 0
  | .memError => 1
  | .memTimeout => 2

/-- CONTROL as read: RUN as stored, LOOK and RESET 0. -/
def State.readControl (s : State) : Word := (BitVec.ofBool s.ctl.run).setWidth 32

/-- STATUS as read (R179). -/
def State.readStatus (s : State) : Word :=
  let low : BitVec 8 := (0 : BitVec 1) ++ WalkerState.code s.wk.state ++ (0 : BitVec 1) ++ OpState.code s.ctl.op
  let high : BitVec 6 :=
    FaultKind.code s.ctl.faultKind ++ BitVec.ofBool s.wk.badLink ++ BitVec.ofBool s.ctl.refusedWrite ++
      BitVec.ofBool s.jrn.starved ++ BitVec.ofBool (s.eng.rate == .drowsy)
  (high ++ low).setWidth 32

/-- ATTN_ENABLE as read (R183). -/
def State.readAttnEnable (s : State) : Word :=
  (BitVec.ofBool s.atn.chain.enabled ++ BitVec.ofBool s.atn.journal.enabled ++ BitVec.ofBool s.atn.trip.enabled ++
    BitVec.ofBool s.atn.fault.enabled).setWidth 32

/-- What a read of ATTENTION would return now (R184). -/
def State.attentionVector (s : State) : Word :=
  match s.atn.highest with
  | some c => s.atn.vector c
  | none => noneVector

/-- The eight registers by offset (13, Registers). Reading any of them but ATTENTION has no effect (R177);
the effect of an ATTENTION read is the command ATTENTION_READ. -/
def State.readRegister (s : State) (offset : Nat) : Option Word :=
  match offset with
  | 0x00 => some Config.ident
  | 0x04 => some s.readControl
  | 0x08 => some s.readStatus
  | 0x0C => some s.ctl.areaBase
  | 0x10 => some s.readAttnEnable
  | 0x14 => some s.attentionVector
  | 0x18 => some 0
  | 0x1C => some s.ctl.faultAddr
  | _ => none

/-! ### Output lines -/

/-- A point state satisfies the selected link states (R160). -/
def LinkStates.satisfied (l : LinkStates) : PointState → Bool
  | .engaged => l.onEngaged
  | .leaving => l.onEngaged
  | .fault => l.onFault
  | .calibrating => l.onCalibrating
  | .disabled => false
  | .idle => false
  | .entering => false

/-- The wanted level of a LINKED line over the point view (R160). -/
def Line.wanted (l : Line) (view : Vector PointState 32) : Bool :=
  (List.finRange 32).any fun p => l.linkSet.getLsbD p.val && l.linkStates.satisfied view[p]

/-- What a pin presents (R162). -/
inductive PinLevel where
  | high | low | highZ
  deriving DecidableEq, Repr

/-- The pin of a line by its drive and level (R162). -/
def Line.pin (l : Line) : PinLevel :=
  match l.drive, l.level with
  | .pushPullHigh, true => .high
  | .pushPullHigh, false => .low
  | .openDrainLow, true => .low
  | .openDrainLow, false => .highZ
  | .off, _ => .highZ

/-- Pin OUTn (R162). -/
def State.outPin (s : State) (n : Fin 8) : PinLevel := (s.out.lines[n]).pin

/-- The set of active lines (R164). -/
def OutputUnit.active (o : OutputUnit) : Word :=
  (List.finRange 8).foldl (fun acc n => if (o.lines[n]).level then acc ||| (1#32 <<< n.val) else acc) 0

/-- The level a line takes on entry to FAULTED (R166). -/
def Line.faulted (l : Line) : Line :=
  match l.faultLevel with
  | .active => { l with level := true }
  | .inactive => { l with level := false }
  | .hold => l

end Sys2Proof.Machine
end

