-- ==== Sys2Proof/Machine/Operands.lean ====
section
/-! DEFINITION. The operands of the fourteen request kinds: how the walker reads them from its copy of a block, with the kind and content checks of R28. -/

namespace Sys2Proof.Machine

/-- The three classes of request kinds (R27). -/
inductive RequestClass where
  | immediate | boundary | detached
  deriving DecidableEq, Repr

/-- A request whose kind and content checks have passed (R27, 13 Parameter areas). -/
inductive Request where
  | configOutput (line : Fin 8) (record : Line)
  | setOutputs (lines : BitVec 8) (levels : Vector Bool 8)
  | givePages (pages : List Word)
  | reclaimPages (limit : Nat)
  | flushJournal
  | configPoint (point : PointId) (cfg : Settings)
  | releasePoint (point : PointId)
  | configGroup (group : Fin 4) (record : Group)
  | setTiming (timing : Timing)
  | recalibrate (set : PointSet)
  | reseed (set : PointSet)
  | snapshot (buffer : Word) (set : PointSet)
  | mark (tag : Half)
  | spot (point : PointId) (multiplier : Nat)
  deriving DecidableEq, Repr

/-- The class of a request (R27). -/
def Request.cls : Request → RequestClass
  | .configOutput _ _ => .immediate
  | .setOutputs _ _ => .immediate
  | .givePages _ => .immediate
  | .reclaimPages _ => .immediate
  | .flushJournal => .immediate
  | .configPoint _ _ => .boundary
  | .releasePoint _ => .boundary
  | .configGroup _ _ => .boundary
  | .setTiming _ => .boundary
  | .recalibrate _ => .boundary
  | .reseed _ => .boundary
  | .snapshot _ _ => .boundary
  | .mark _ => .boundary
  | .spot _ _ => .detached

/-! ### Named codes -/

/-- yes/no, on/off, active/inactive. -/
def boolOf (b : Byte) : Option Bool :=
  if b = 0 then some false else if b = 1 then some true else none

/-- Line owners (13, Parameter areas). -/
def ownerOf (b : Byte) : Option Owner :=
  if b = 0 then some .direct else if b = 1 then some .linked else none

/-- Line drives. -/
def driveOf (b : Byte) : Option Drive :=
  if b = 0 then some .off else if b = 1 then some .pushPullHigh else if b = 2 then some .openDrainLow else none

/-- Line fault levels. -/
def faultLevelOf (b : Byte) : Option FaultLevel :=
  if b = 0 then some .hold else if b = 1 then some .inactive else if b = 2 then some .active else none

/-- Link states: any bit above the three is none of them (R163). -/
def linkStatesOf (b : Byte) : Option LinkStates :=
  if b < 8 then some ⟨b.getLsbD 0, b.getLsbD 1, b.getLsbD 2⟩ else none

/-- Calibration modes. -/
def calModeOf (b : Byte) : Option CalMode :=
  if b = 0 then some .none else if b = 1 then some .offset else if b = 2 then some .full else none

/-- Directions. -/
def directionOf (b : Byte) : Option Direction :=
  if b = 0 then some .rising else if b = 1 then some .falling else if b = 2 then some .either else none

/-- A point index in 0-31. -/
def pointOf (b : Byte) : Option PointId :=
  if h : b.toNat < 32 then some ⟨b.toNat, h⟩ else none

/-- A group index in 0-3. -/
def groupIndexOf (b : Byte) : Option (Fin 4) :=
  if h : b.toNat < 4 then some ⟨b.toNat, h⟩ else none

/-- A line index in 0-7. -/
def lineOf (b : Byte) : Option (Fin 8) :=
  if h : b.toNat < 8 then some ⟨b.toNat, h⟩ else none

/-- A value in `lo`-`hi`. -/
def inRange (lo hi : Nat) (n : Nat) : Option Nat := if lo ≤ n ∧ n ≤ hi then some n else none

/-- A tuning setting within its range: coarse 0-15, fine 0-31, offset 0-1023 (R39). -/
def tuningOf (coarse fine offset : Nat) : Option Tuning :=
  if coarse ≤ 15 ∧ fine ≤ 31 ∧ offset ≤ 1023 then
    some ⟨BitVec.ofNat 4 coarse, BitVec.ofNat 5 fine, BitVec.ofNat 10 offset⟩
  else none

/-- A group reference, 0-31 or 0xFF for none (13): `some none` is the value none, `none` is refused. -/
def referenceOf (b : Byte) : Option (Option PointId) :=
  if b = 0xFF then some none else (pointOf b).map some

/-! ### Point sets -/

/-- The point is in the set. -/
def inSet (set : PointSet) (p : PointId) : Bool := set.getLsbD p.val

/-- The points of a set in ascending index order. -/
def pointsOf (set : PointSet) : List PointId := (List.finRange 32).filter (inSet set)

/-- The number of points of a set. -/
def setSize (set : PointSet) : Nat := (pointsOf set).length

/-! ### Content checks and operands, one kind each (R28 step 2); none is BAD_PARAM -/

/-- CONFIG_OUTPUT (R163). The record's level is the initial level, which a LINKED line does not take (R164). -/
def configOutputOf (b : Vector Word 16) : Option Request := do
  let line ← lineOf (blockByte b 16)
  let owner ← ownerOf (blockByte b 17)
  let drive ← driveOf (blockByte b 18)
  let faultLevel ← faultLevelOf (blockByte b 19)
  let level ← boolOf (blockByte b 20)
  let linkStates ← linkStatesOf (blockByte b 21)
  return .configOutput line
    { owner := owner, drive := drive, linkSet := blockField b 24, linkStates := linkStates, faultLevel := faultLevel, level := level }

/-- SET_OUTPUTS (R165): only the levels of named lines are checked. -/
def setOutputsOf (b : Vector Word 16) : Option Request :=
  let lines := blockByte b 16
  if (List.finRange 8).all (fun n => !lines.getLsbD n.val || (boolOf (blockByte b (24 + n.val))).isSome) then
    some (.setOutputs lines (Vector.ofFn fun n => blockByte b (24 + n.val) == 1))
  else none

/-- The page address fields of a GIVE_PAGES that its page count covers (R139). -/
def countedPages (b : Vector Word 16) (count : Nat) : List Word :=
  (List.range count).map (fun i => blockField b (20 + 4 * i))

/-- A page address is not 0 and a multiple of 4096 (R14, R139). -/
def pageAligned (a : Word) : Bool := a ≠ 0 ∧ a.toNat % 4096 = 0

/-- GIVE_PAGES (R139). -/
def givePagesOf (b : Vector Word 16) : Option Request :=
  let count := (blockByte b 16).toNat
  let pages := countedPages b count
  if 1 ≤ count ∧ count ≤ 8 ∧ pages.all pageAligned ∧ pages.Nodup then some (.givePages pages) else none

/-- RECLAIM_PAGES (R141). -/
def reclaimPagesOf (b : Vector Word 16) : Option Request :=
  (inRange 1 8 (blockField b 52).toNat).map .reclaimPages

/-- CONFIG_POINT (R49). -/
def configPointOf (b : Vector Word 16) : Option Request := do
  let point ← pointOf (blockByte b 16)
  let integration ← inRange 1 16 (blockByte b 17).toNat
  let calMode ← calModeOf (blockByte b 18)
  let direction ← directionOf (blockByte b 19)
  let calTarget ← inRange 64 60000 (blockHalf b 20).toNat
  let calBand ← inRange 1 4095 (blockHalf b 22).toNat
  let gains ← tuningOf (blockByte b 24).toNat (blockByte b 25).toNat (blockHalf b 26).toNat
  let threshold ← inRange 1 4095 (blockHalf b 28).toNat
  let hysteresis ← inRange 0 (threshold - 1) (blockHalf b 30).toNat
  let enterDebounce ← inRange 0 15 (blockByte b 32).toNat
  let exitDebounce ← inRange 0 15 (blockByte b 33).toNat
  let slowBeta ← inRange 1 15 (blockByte b 34).toNat
  let fastBeta ← inRange 1 slowBeta (blockByte b 35).toNat
  let autoRecalibrate ← boolOf (blockByte b 38)
  let urgent ← boolOf (blockByte b 39)
  let verbose ← boolOf (blockByte b 40)
  return .configPoint point
    { integration := integration, calMode := calMode, calTarget := calTarget, calBand := calBand, gains := gains,
      direction := direction, threshold := threshold, hysteresis := hysteresis, enterDebounce := enterDebounce,
      exitDebounce := exitDebounce, slowBeta := slowBeta, fastBeta := fastBeta, stuckLimit := (blockHalf b 36).toNat,
      autoRecalibrate := autoRecalibrate, urgent := urgent, verbose := verbose }

/-- RELEASE_POINT (R54). -/
def releasePointOf (b : Vector Word 16) : Option Request := (pointOf (blockByte b 16)).map .releasePoint

/-- CONFIG_GROUP (R98). -/
def configGroupOf (b : Vector Word 16) : Option Request := do
  let group ← groupIndexOf (blockByte b 16)
  let reference ← referenceOf (blockByte b 17)
  let halt ← boolOf (blockByte b 18)
  let members := blockField b 20
  let weight ← inRange 0 512 (blockHalf b 24).toNat
  if (reference.map (inSet members)).getD true then
    return .configGroup group { members := members, reference := reference, weight := weight, halt := halt }
  else none

/-- SET_TIMING (R122). -/
def setTimingOf (b : Vector Word 16) : Option Request := do
  let brisk ← inRange 1 1000 (blockField b 16).toNat
  let drowsy ← inRange brisk 10000 (blockField b 20).toNat
  let drowsyAfter ← inRange 0 65535 (blockField b 24).toNat
  let linger ← inRange 0 60000 (blockField b 28).toNat
  return .setTiming { brisk := brisk, drowsy := drowsy, drowsyAfter := drowsyAfter, linger := linger }

/-- SNAPSHOT (R156, R14): the buffer is 32-aligned and ends within the address space. -/
def snapshotOf (b : Vector Word 16) : Option Request :=
  let buffer := blockField b 16
  let set := blockField b 20
  if buffer.toNat % 32 = 0 ∧ buffer.toNat + 32 * setSize set ≤ 2 ^ 32 then some (.snapshot buffer set) else none

/-- SPOT (R149). -/
def spotOf (b : Vector Word 16) : Option Request := do
  let point ← pointOf (blockByte b 60)
  let multiplier ← inRange 1 64 (blockByte b 61).toNat
  return .spot point multiplier

/-- The content check of each kind by its code (13, Codes): none where the code names no kind, else the
checked request or none for BAD_PARAM. -/
def contentOf (b : Vector Word 16) : Option (Option Request) :=
  match (blockByte b 5).toNat with
  | 1 => some (configOutputOf b)
  | 2 => some (setOutputsOf b)
  | 3 => some (givePagesOf b)
  | 4 => some (reclaimPagesOf b)
  | 5 => some (some .flushJournal)
  | 6 => some (configPointOf b)
  | 7 => some (releasePointOf b)
  | 8 => some (configGroupOf b)
  | 9 => some (setTimingOf b)
  | 10 => some (some (.recalibrate (blockField b 16)))
  | 11 => some (some (.reseed (blockField b 16)))
  | 12 => some (snapshotOf b)
  | 13 => some (some (.mark (blockHalf b 8)))
  | 14 => some (spotOf b)
  | _ => none

/-- The walker's own checks, kind and then content (R28 steps 1 and 2): the request, or the code the block
is refused with. -/
def parse (b : Vector Word 16) : Except ResultCode Request :=
  match contentOf b with
  | none => .error .badKind
  | some none => .error .badParam
  | some (some r) => .ok r

end Sys2Proof.Machine
end

