-- ==== Sys2Proof/Machine/Ops.lean ====
section
/-! DEFINITION. The named operations over the state that every unit's chapter uses: one update per unit, shared memory, the memory port, the causes of attention, point records and the reports to the output unit. -/

namespace Sys2Proof.Machine

/-! ### One update per unit -/

/-- Replace the control unit. -/
def State.setCtl (s : State) (x : ControlUnit) : State := { s with ctl := x }

/-- Replace the port's received accesses. -/
def State.setPort (s : State) (x : List Access) : State := { s with port := x }

/-- Replace the walker. -/
def State.setWk (s : State) (x : Walker) : State := { s with wk := x }

/-- Replace the scan engine. -/
def State.setEng (s : State) (x : ScanEngine) : State := { s with eng := x }

/-- Replace the arbiter. -/
def State.setArb (s : State) (x : Arbiter) : State := { s with arb := x }

/-- Replace the journal unit. -/
def State.setJrn (s : State) (x : Journal) : State := { s with jrn := x }

/-- Replace the spot unit. -/
def State.setSpt (s : State) (x : SpotUnit) : State := { s with spt := x }

/-- Replace the mirror writer. -/
def State.setMir (s : State) (x : Mirror) : State := { s with mir := x }

/-- Replace the output unit. -/
def State.setOut (s : State) (x : OutputUnit) : State := { s with out := x }

/-- Replace the attention unit. -/
def State.setAtn (s : State) (x : Attention) : State := { s with atn := x }

/-- Replace shared memory. -/
def State.setMem (s : State) (x : List Host.Cell) : State := { s with mem := x }

/-- Replace the data returned by the register port. -/
def State.setReadData (s : State) (x : Word) : State := { s with readData := x }

/-- Replace the counter of free values. -/
def State.setTick (s : State) (x : Nat) : State := { s with tick := x }

/-- Replace the queue of commands. -/
def State.setPending (s : State) (x : List Instr) : State := { s with pending := x }

/-- The walker in another state, its anchor and marks kept. -/
def State.walkTo (s : State) (w : WalkerState) : State := s.setWk { s.wk with state := w }

/-! ### Shared memory, as the device's writes leave it (log entry 7) -/

/-- The byte at an address, none where the device has written nothing. -/
def Memory.read : List Host.Cell → Nat → Option Byte
  | [], _ => none
  | (x, y) :: rest, a => if a = x then some y else Memory.read rest a

/-- Put one byte, keeping the addresses strictly rising. -/
def Memory.put : List Host.Cell → Nat → Byte → List Host.Cell
  | [], a, b => [(a, b)]
  | (x, y) :: rest, a, b =>
    if a < x then (a, b) :: (x, y) :: rest
    else if a = x then (a, b) :: rest
    else (x, y) :: Memory.put rest a b

/-- The canonical form: addresses strictly rising. An unlisted address reads as no byte of the device's, so
no entry can equal it. -/
abbrev Memory.wf (m : List Host.Cell) : Prop := m.Pairwise fun x y => x.1 < y.1

/-- Write one word at a byte address, least significant byte lowest (R188). -/
def Memory.putWord (m : List Host.Cell) (a : Nat) (w : Word) : List Host.Cell :=
  Memory.put (Memory.put (Memory.put (Memory.put m a (byteOf w 0)) (a + 1) (byteOf w 1)) (a + 2) (byteOf w 2))
    (a + 3) (byteOf w 3)

/-- Write consecutive words in ascending address order (R8). -/
def Memory.putWords (m : List Host.Cell) (a : Nat) : List Word → List Host.Cell
  | [] => m
  | w :: ws => Memory.putWords (Memory.putWord m a w) (a + 4) ws

/-- Write those of consecutive words that a mask names, bit i for word i (log entry 8). -/
def Memory.putMasked (m : List Host.Cell) (a : Nat) (mask : BitVec 16) : Nat → List Word → List Host.Cell
  | _, [] => m
  | i, w :: ws =>
    Memory.putMasked (if mask.getLsbD i then Memory.putWord m (a + 4 * i) w else m) a mask (i + 1) ws

/-! ### The memory port (R9) -/

/-- The agent an access belongs to (R7). -/
def AccessKind.agent : AccessKind → Agent
  | .headerRead => .walker
  | .linkRead => .walker
  | .blockRead => .walker
  | .takenWrite => .walker
  | .resultWrite => .walker
  | .closedWrite => .walker
  | .spotWrite => .spot
  | .snapshotWrite => .spot
  | .journalWrite => .journal
  | .mirrorWrite => .mirror

/-- The access on the interconnect is of this kind. -/
def State.serving (s : State) (k : AccessKind) : Bool :=
  match s.port with
  | a :: _ => a.kind == k
  | [] => false

/-- An agent issues an access: the port receives it behind those it has (R9). -/
def issue (k : AccessKind) (addr : Word) (data : List Word) (s : State) : State :=
  s.setPort (s.port ++ [{ kind := k, addr := addr, data := data }])

/-- The access on the interconnect completes: its words stand in memory (R10) and the port takes the next. -/
def retire (s : State) : State :=
  match s.port with
  | a :: rest => (s.setPort rest).setMem (Memory.putWords s.mem a.addr.toNat a.data)
  | [] => s

/-- The access writes a page header: a journal write at the page's own address (R128, R14). -/
def Access.writesHeader (a : Access) : Bool := a.kind = .journalWrite && a.addr.toNat % 4096 = 0

/-- The access writes the CLOSED header of a page: its state field is 2 (R127, R135; 13, Page header). -/
def Access.closesPage (a : Access) : Bool := a.writesHeader && (a.data.headD 0).extractLsb' 0 8 = 2

/-- The words of an abandoned access of which memory may hold some: those of a burst (R12). A write of one word did
not complete, so a block whose TAKEN or CLOSED write is abandoned keeps the status it had (R36, R37, R155). -/
def Access.burstWords (a : Access) : List Word :=
  match a.data with
  | w :: w' :: ws => w :: w' :: ws
  | _ => []

/-- The access on the interconnect is abandoned: of a burst memory holds whatever words it accepted (R12, R13; log
entry 8), but of an access for which `leaves` holds it is as last written. Accesses not yet placed on the interconnect are
dropped. -/
def abandonAccesses (leaves : Access → Bool) (s : State) : State :=
  match s.port with
  | a :: _ =>
    ((s.setPort []).setMem (Memory.putMasked s.mem a.addr.toNat (Config.acceptedWords s.tick) 0
      (if leaves a then [] else a.burstWords))).setTick (s.tick + 1)
  | [] => s

/-- A permutation of a list coded by a number: the code's remainder picks the first, its quotient orders the
rest. `fuel` is the length. -/
def permute (code : Nat) : Nat → List Access → List Access
  | 0, _ => []
  | fuel + 1, l =>
    match l[code % l.length]? with
    | some a => a :: permute (code / l.length) fuel (l.eraseIdx (code % l.length))
    | none => []

/-- The port receives the accesses issued in one event, those behind the first `kept`, in an order the spec
leaves open when there are two or more (R9; log entry 9). -/
def receiveTogether (kept : Nat) (s : State) : State :=
  (s.setPort (if s.port.length ≤ kept + 1 then s.port
    else s.port.take kept ++ permute (Config.receiveOrder s.tick) (s.port.length - kept) (s.port.drop kept))).setTick
    (if s.port.length ≤ kept + 1 then s.tick else s.tick + 1)

/-! ### Causes of attention (R181, R182) -/

/-- The causes, with the point for TRIP (R181). -/
inductive Cause where
  | memError | memTimeout
  | engaged (p : PointId) | pointFault (p : PointId)
  | pageClosed | starved
  | notify | loadRefused | stopped
  deriving DecidableEq, Repr

/-- The class a cause belongs to (R181). -/
def Cause.cls : Cause → AttnClass
  | .memError => .fault
  | .memTimeout => .fault
  | .engaged _ => .trip
  | .pointFault _ => .trip
  | .pageClosed => .journal
  | .starved => .journal
  | .notify => .chain
  | .loadRefused => .chain
  | .stopped => .chain

/-- A cause's bit in its class's cause set (13, Registers: bit 8 of the vector is bit 0 here). -/
def Cause.bit : Cause → BitVec 3
  | .memError => 1
  | .memTimeout => 2
  | .engaged _ => 1
  | .pointFault _ => 2
  | .pageClosed => 1
  | .starved => 2
  | .notify => 1
  | .loadRefused => 2
  | .stopped => 4

/-- TRIP's index after a cause (R182): ENGAGED takes it from none or POINT_FAULT, POINT_FAULT from none. -/
def nextTripIndex (old : Option TripIndex) : Cause → Option TripIndex
  | .engaged p =>
    match old with
    | some { point := q, kind := .engaged } => some ⟨q, .engaged⟩
    | _ => some ⟨p, .engaged⟩
  | .pointFault p =>
    match old with
    | none => some ⟨p, .pointFault⟩
    | some t => some t
  | _ => old

/-- Raise a cause: the class is pending and its set holds the cause (R181). -/
def Attention.raise (a : Attention) (c : Cause) : Attention :=
  let x := a.cls c.cls
  { a.setCls c.cls { x with pending := true, causes := x.causes ||| c.bit } with tripIndex := nextTripIndex a.tripIndex c }

/-- Raise a cause in the attention unit. -/
def raise (c : Cause) (s : State) : State := s.setAtn (s.atn.raise c)

/-! ### Points, groups and reports -/

/-- A point's record. -/
def State.point (s : State) (p : PointId) : Point := s.eng.points[p]

/-- Replace a point's record. -/
def State.setPoint (s : State) (p : PointId) (x : Point) : State :=
  s.setEng { s.eng with points := s.eng.points.set p.val x p.isLt }

/-- A point is enabled while it is not DISABLED (R38). -/
def Point.enabled (p : Point) : Bool := p.state ≠ .disabled

/-- The point is ENGAGED or LEAVING. -/
def PointState.isEngaged : PointState → Bool
  | .engaged => true
  | .leaving => true
  | .disabled => false
  | .calibrating => false
  | .idle => false
  | .entering => false
  | .fault => false

/-- The point is IDLE, ENTERING, ENGAGED or LEAVING: the states the detection pipeline runs in (R73). -/
def PointState.detecting : PointState → Bool
  | .idle => true
  | .entering => true
  | .engaged => true
  | .leaving => true
  | .disabled => false
  | .calibrating => false
  | .fault => false

/-- The group a point belongs to (R97). -/
def groupOf (groups : Vector Group 4) (p : PointId) : Option (Fin 4) :=
  (List.finRange 4).find? fun g => inSet groups[g].members p

/-- The output unit takes a report: its view takes the new state, and every LINKED line whose link set holds
the point is evaluated (R160, R161). -/
def OutputUnit.take (o : OutputUnit) (p : PointId) (st : PointState) : OutputUnit :=
  let view := o.view.set p.val st p.isLt
  { o with
    view := view
    lines := Vector.ofFn fun n =>
      let l := o.lines[n]
      if l.owner = .linked ∧ inSet l.linkSet p then { l with level := l.wanted view } else l }

/-- A report reaches the output unit. It is taken, unless an entry to FAULTED that reaches the unit together with it is
taken first (R166, log entry 29). -/
def OutputUnit.report (o : OutputUnit) (p : PointId) (st : PointState) : OutputUnit :=
  match o.entryAfter with
  | none => o.take p st
  | some 0 => o
  | some (n + 1) => { o.take p st with entryAfter := some n }

/-- A point's record is replaced, and a change of its state is reported (R43). Whether the report is taken where it meets
an entry to FAULTED is the output unit's affair (R166). -/
def State.updatePoint (s : State) (p : PointId) (x : Point) : State :=
  if x.state = (s.point p).state then s.setPoint p x
  else (s.setPoint p x).setOut (s.out.report p x.state)

/-- The scan engine is between frames (R111). -/
def State.betweenFrames (s : State) : Bool :=
  match s.eng.frameState with
  | .parked => true
  | .waiting => true
  | .scanning => false
  | .cutting => false

end Sys2Proof.Machine
end

