-- ==== Sys2Proof/Machine/Chain.lean ====
section
/-! DEFINITION. 02_the_request_chain.md: how the walker starts a look, rests, hears a LOOK or a frame boundary, and answers the block it holds. -/

namespace Sys2Proof.Machine

/-- The address of the anchor's link field: the header's chain link or a block's link (R3, R22, 13). -/
def Anchor.linkAddr (areaBase : Word) : Anchor → Word
  | .header => areaBase + 8
  | .block a => a
  | .none => areaBase + 8

/-- The anchor's address as the mirror shows it (R4). -/
def Anchor.addr (areaBase : Word) : Anchor → Word
  | .header => areaBase
  | .block a => a
  | .none => 0

/-- A look: the walker reads the anchor's link as one single-word access (R22). -/
def startLook (s : State) : State :=
  issue .linkRead (s.wk.anchor.linkAddr s.ctl.areaBase) [] (s.walkTo .fetchLink)

/-- The walker enters RESTING; a pending look is used at once (R23). -/
def enterResting (s : State) : State :=
  if s.wk.pendingLook then startLook (s.setWk { s.wk with pendingLook := false }) else s.walkTo .resting

/-- The walker hears a LOOK while the device is RUNNING (R22, R23). -/
def hearLook (s : State) : State :=
  match s.wk.state with
  | .resting => startLook s
  | .idle => s
  | _ => s.setWk { s.wk with pendingLook := true }

/-- The scan engine reports a frame boundary: a look in RESTING, nothing elsewhere (R22). -/
def frameBoundary (s : State) : State :=
  match s.wk.state with
  | .resting => startLook s
  | _ => s

/-- The block becomes the anchor and a look on it starts at once (R26). -/
def anchorAndLook (addr : Word) (s : State) : State := startLook (s.setWk { s.wk with anchor := .block addr })

/-- The held block is answered: the walker is CLOSING and writes the result, from offset 8 (R18, R30). -/
def answer (h : Held) (a : Answer) (s : State) : State :=
  issue .resultWrite (h.addr + 8) (resultWords (blockHalf h.block 8) a.code a.value a.params) (s.walkTo (.closingResult h a))

/-- Result DONE with a value and no parameter results. -/
def Answer.done (value : Word) : Answer := { code := .done, value := value, params := [] }

/-- Any other result: value 0 and the parameter area left as the host wrote it (R28). -/
def Answer.refused (code : ResultCode) : Answer := { code := code, value := 0, params := [] }

end Sys2Proof.Machine
end

