-- ==== Sys2Proof/Machine/MirrorWriter.lean ====
section
/-! DEFINITION. 01 The status mirror: capture of an image and its issue (R4, R5). -/

namespace Sys2Proof.Machine

/-- The image as the owning units stand (R4). -/
def captureImage (s : State) : Image :=
  { frameNumber := s.eng.frameNumber
    lastRecord := s.jrn.recordSeq
    openPage := match s.jrn.page with
      | some page => page.addr
      | none => 0
    anchor := s.wk.anchor.addr s.ctl.areaBase
    gap := s.eng.gap
    pagesQueued := s.jrn.queue.length
    rate := s.eng.rate
    starved := s.jrn.starved }

/-- An image is issued as one access of eight words to the device half (R5). -/
def issueImage (image : Image) (atStop : Bool) (s : State) : State :=
  issue .mirrorWrite (s.ctl.areaBase + 32) image.words
    (s.setMir { s.mir with writing := some { image := image, atStop := atStop }, waiting := none })

/-- An image waits behind the one whose write is in progress, in the place of one that waited (R5). -/
def waitImage (image : Image) (s : State) : State := s.setMir { s.mir with waiting := some image }

/-- An image replaces the one whose access the port has received and not placed; the access keeps its place in the port (R5,
R9; log entry 27). -/
def replaceImage (image : Image) (w : MirrorWrite) (s : State) : State :=
  (s.setPort (s.port.map fun a => if a.kind = .mirrorWrite then { a with data := image.words } else a)).setMir
    { s.mir with writing := some { w with image := image } }

/-- The port, idle when the event began, has placed the image on the interconnect: it is the oldest access (R9). -/
def placeImage (s : State) : State :=
  (s.setPort (s.port.filter (fun a => a.kind = .mirrorWrite) ++ s.port.filter (fun a => a.kind ≠ .mirrorWrite))).setMir
    { s.mir with during := .image }

/-- A captured image goes to the port with no write in progress, and else waits behind the write in progress in the place of
an image that waited (R5). An image whose access the port has received and not placed on the interconnect is one that waits
to be written; with the port idle when the event began, whether it has been placed is open (log entry 27). -/
def takeImage (image : Image) (atStop : Bool) (s : State) : State :=
  match s.mir.writing with
  | none => issueImage image atStop s
  | some w =>
    match s.mir.during with
    | .between => waitImage image s
    | .image => waitImage image s
    | .other => replaceImage image w s
    | .idle =>
      let s' := s.setTick (s.tick + 1)
      if Config.imagePlaced s.tick then waitImage image (placeImage s') else replaceImage image w s'

/-- The mirror writer captures an image (R4, R5). It changes nothing but its own part, the port and the counter of free
values, whatever is open of the image before. -/
def capture (atStop : Bool) (s : State) : State :=
  let t := takeImage (captureImage s) atStop s
  ((s.setPort t.port).setMir t.mir).setTick t.tick

/-- What stands on the interconnect, by the accesses the port holds: the oldest (R9). -/
def MirrorDuring.ofPort : List Access → MirrorDuring
  | [] => .idle
  | a :: _ => if a.kind = .mirrorWrite then .image else .other

/-- An event of the scan engine begins: the mirror writer's part is told what stands on the interconnect. -/
def State.eventBegun (s : State) : State := s.setMir { s.mir with during := .ofPort s.port }

/-- An event of the scan engine is carried out. The port receives its accesses in an open order (R9, log entry 9) behind
those it held, and behind an image that it has placed in the event (log entry 27). -/
def scanEvent (f : State → State) (s : State) : State :=
  let x := f s.eventBegun
  let t := receiveTogether (if x.mir.during = .image then max 1 s.port.length else s.port.length) x
  t.setMir { t.mir with during := s.mir.during }

/-- The mirror writer issues accesses in RUNNING and STOPPED (R7). -/
def OpState.mirrorIssues : OpState → Bool
  | .running => true
  | .stopped => true
  | .off => false
  | .loading => false
  | .stopping => false
  | .faulted => false

/-- The image write in progress has completed: a waiting image is issued, but kept waiting in STOPPING (R5,
R172), and STOPPED is raised for the image captured at entry to STOPPED (R6, R173). -/
def nextImage (s : State) : State :=
  match s.mir.writing with
  | none => s
  | some w =>
    let s' := s.setMir { s.mir with writing := none }
    let s'' := if w.atStop then raise .stopped s' else s'
    match s.mir.waiting with
    | some image => if s.ctl.op.mirrorIssues then issueImage image false s'' else s''
    | none => s''

end Sys2Proof.Machine
end

