-- ==== Sys2Proof/Machine/Calibration.lean ====
section
/-! DEFINITION. 04_calibration.md: the procedures, the preparation of a step at its grant, one step's decision, and the outcome; each a function of one point's record. -/

namespace Sys2Proof.Machine

/-- What a slot's conversion brings about: the point's new record, the journal record appended, and the kind
of TRIP cause raised. -/
structure Measured where
  pt : Point
  record : Option Record
  trip : Option TripKind
  deriving DecidableEq, Repr

/-- A count of 0 or 65535 (R46). -/
def isSaturated (c : Half) : Bool := c = 0 || c = 0xFFFF

/-- A point record of the journal (R129): form by the verbose setting, new state and tuning as the event
leaves them. -/
def pointRecord (kind : RecordKind) (p : PointId) (pt : Point) (detail : Half) (delta : Int) (count : Half) (baseline stuck : Nat) :
    Record :=
  { kind := kind, long := pt.cfg.verbose, who := some (p, pt.state), detail := detail, delta := signedField delta,
    baseline := baseline, count := count, tuning := pt.tuning, stuck := stuck }

/-! ### Procedures and steps (R57, R58) -/

/-- The point's mode selects the FULL procedure (R57); any other mode the OFFSET procedure. -/
def Settings.fullProcedure (cfg : Settings) : Bool := cfg.calMode = .full

/-- The procedure as a record's detail: 1 FULL, 2 OFFSET (R64, 13). -/
def Settings.procedureDetail (cfg : Settings) : Half := if cfg.fullProcedure then 1 else 2

/-- The start position of the procedure the mode selects (R58). -/
def Settings.startPhase (cfg : Settings) : CalPhase := if cfg.fullProcedure then .coarse else .offset

/-- The step of the start position (R58). -/
def Settings.startStep (cfg : Settings) : Nat := if cfg.fullProcedure then 3 else 9

/-- The point stands at its procedure's start position (R58). -/
def Point.atStart (pt : Point) : Bool := pt.calPhase = pt.cfg.startPhase && pt.calStep = pt.cfg.startStep

/-- The phase and step after a search step (R58). -/
def nextStep : CalPhase → Nat → CalPhase × Nat
  | .coarse, 0 => (.fine, 4)
  | .fine, 0 => (.offset, 9)
  | .offset, 0 => (.verify, 0)
  | ph, n + 1 => (ph, n)
  | ph, 0 => (ph, 0)

/-- A point enters CALIBRATING at its start position (R58, R66, R67). -/
def Point.startCalibration (pt : Point) : Point :=
  { pt with state := .calibrating, calPhase := pt.cfg.startPhase, calStep := pt.cfg.startStep }

/-- An armed recalibrate is taken at the point's slot (R67, its table). -/
def Point.takesRecal (pt : Point) : Bool :=
  pt.armedRecal && (pt.state = .fault || (pt.state.detecting && !pt.armedReseed))

/-- Taking the armed recalibrate, one event at the slot (R67). -/
def Point.takeRecal (pt : Point) : Point :=
  { pt with armedRecal := false, armedReseed := false, seedPending := false, faultCause := .none, debounce := 0, stuck := 0,
            lastRawDelta := 0, lastDelta := 0 }.startCalibration

/-! ### One step (R59, R60) -/

/-- Set bit `i`. -/
def withBit {w : Nat} (x : BitVec w) (i : Nat) : BitVec w := x ||| (1#w <<< i)

/-- Clear bit `i`. -/
def withoutBit {w : Nat} (x : BitVec w) (i : Nat) : BitVec w := x &&& ~~~(1#w <<< i)

/-- The current values prepared at the grant of a step, its trial bit set (R59). -/
def prepare (phase : CalPhase) (step : Nat) (t : Tuning) : Tuning :=
  match phase with
  | .coarse => if step = 3 then { coarse := withBit 0 3, fine := 16, offset := 0 } else { t with coarse := withBit t.coarse step }
  | .fine => { t with fine := withBit (if step = 4 then 0 else t.fine) step }
  | .offset => { t with offset := withBit (if step = 9 then 0 else t.offset) step }
  | .verify => t
  | .none => t

/-- The trial bit is decided against the target (R60, R61). -/
def decideBit (phase : CalPhase) (step target : Nat) (c : Half) (t : Tuning) : Tuning :=
  match phase with
  | .coarse => if c.toNat ≤ target then t else { t with coarse := withoutBit t.coarse step }
  | .fine => if c.toNat ≤ target then t else { t with fine := withoutBit t.fine step }
  | .offset => if target ≤ c.toNat then t else { t with offset := withoutBit t.offset step }
  | .verify => t
  | .none => t

/-- The distance of a count from the calibration target, without sign. -/
def Settings.targetDistance (cfg : Settings) (c : Half) : Nat := ((c.toNat : Int) - cfg.calTarget).natAbs

/-- A search step at its conversion's completion (R60, R64). -/
def searchStep (p : PointId) (pt : Point) (c : Half) : Measured :=
  let next := nextStep pt.calPhase pt.calStep
  let pt' := { pt with lastCount := c, tuning := decideBit pt.calPhase pt.calStep pt.cfg.calTarget c pt.tuning,
                       calPhase := next.1, calStep := next.2 }
  { pt := pt'
    record := if pt.atStart then some (pointRecord .calStart p pt' pt.cfg.procedureDetail 0 c pt.baseline 0) else none
    trip := none }

/-- The verification step at its conversion's completion (R62, R63, R65). -/
def verifyStep (p : PointId) (pt : Point) (c : Half) : Measured :=
  let delta : Int := (c.toNat : Int) - pt.cfg.calTarget
  if !isSaturated c && pt.cfg.targetDistance c ≤ pt.cfg.calBand then
    let pt' := { pt with lastCount := c, baseline := 256 * c.toNat, state := .idle, calPhase := .none, calStep := 0,
                         faultCause := .none, debounce := 0, stuck := 0, lastRawDelta := 0, lastDelta := 0 }
    { pt := pt', record := some (pointRecord .calDone p pt' pt.cfg.procedureDetail delta c pt'.baseline 0), trip := none }
  else
    let pt' := { pt with lastCount := c, state := .fault, faultCause := .calFail, calPhase := .none, calStep := 0 }
    { pt := pt', record := some (pointRecord .calFail p pt' pt.cfg.procedureDetail delta c pt.baseline 0), trip := some .pointFault }

/-- One calibration step with its count (R60). -/
def calibrationStep (p : PointId) (pt : Point) (c : Half) : Measured :=
  match pt.calPhase with
  | .verify => verifyStep p pt c
  | .coarse => searchStep p pt c
  | .fine => searchStep p pt c
  | .offset => searchStep p pt c
  | .none => { pt := { pt with lastCount := c }, record := none, trip := none }

end Sys2Proof.Machine
end

