-- ==== Sys2Proof/Machine/Detection.lean ====
section
/-! DEFINITION. 05_baseline_tracking_and_event_detection.md and 06_point_groups.md: the detection pipeline of one point (R73), and what its group contributes to it (R101, R103, R105). -/

namespace Sys2Proof.Machine

/-! ### What the group contributes -/

/-- What a point's group brings to its measurement: the compensation (R103), the veto (R105) and halt (R101). -/
structure GroupView where
  compensation : Int
  vetoed : Bool
  halted : Bool
  deriving DecidableEq, Repr

/-- A point in no group is neither compensated, vetoed nor halted (R77, R78, R85). -/
def GroupView.alone : GroupView := { compensation := 0, vetoed := false, halted := false }

/-- The reference of `p`'s group when `p` is one of its followers (R97). -/
def Group.referenceFor (g : Group) (p : PointId) : Option PointId := g.reference.filter (· ≠ p)

/-- The compensation of a follower: weight times the reference's last raw delta over 256, toward zero (R103);
0 while the reference is DISABLED, CALIBRATING or FAULT (R104). -/
def Group.compensation (g : Group) (ref : Point) : Int :=
  if ref.state.detecting then Int.tdiv (g.weight * ref.lastRawDelta) 256 else 0

/-- Some other member is ENGAGED or LEAVING (R101). The measured member itself counts with the state step 6
gives it, and its baseline moves only when that state is IDLE, so it never halts itself. -/
def Group.othersEngaged (g : Group) (points : Vector Point 32) (p : PointId) : Bool :=
  (pointsOf g.members).any fun q => q ≠ p && points[q].state.isEngaged

/-- The group view of point `p` at its measurement (R97, R101, R103-R105). -/
def groupView (points : Vector Point 32) (groups : Vector Group 4) (p : PointId) : GroupView :=
  match groupOf groups p with
  | none => GroupView.alone
  | some i =>
    let g := groups[i]
    let halted := g.halt && g.othersEngaged points p
    match g.referenceFor p with
    | none => { compensation := 0, vetoed := false, halted := halted }
    | some r =>
      { compensation := if points[p].cfg.direction = .either then 0 else g.compensation points[r]
        vetoed := points[r].state.isEngaged
        halted := halted }

/-! ### The steps of the pipeline -/

/-- Step 4: the raw delta from the count and the integer part of the baseline (R76). -/
def rawDelta (dir : Direction) (c : Half) (baseline : Nat) : Int :=
  let d : Int := (c.toNat : Int) - (baseline / 256 : Nat)
  match dir with
  | .rising => d
  | .falling => -d
  | .either => d.natAbs

/-- The release level, threshold less hysteresis (05, Engagement). -/
def Settings.releaseLevel (cfg : Settings) : Int := (cfg.threshold : Int) - cfg.hysteresis

/-- Step 6: the state and debounce counter after the engagement state machine, the veto applied first
(R78-R82, R105). -/
def engagement (cfg : Settings) (vetoed : Bool) (st : PointState) (debounce : Nat) (delta : Int) : PointState × Nat :=
  match st with
  | .idle =>
    if vetoed then (.idle, 0)
    else if (cfg.threshold : Int) ≤ delta then (if cfg.enterDebounce ≤ 1 then (.engaged, 0) else (.entering, 1))
    else (.idle, 0)
  | .entering =>
    if vetoed then (.idle, 0)
    else if (cfg.threshold : Int) ≤ delta then
      (if debounce + 1 = cfg.enterDebounce then (.engaged, 0) else (.entering, debounce + 1))
    else (.idle, 0)
  | .engaged =>
    if delta < cfg.releaseLevel then (if cfg.exitDebounce ≤ 1 then (.idle, 0) else (.leaving, 1)) else (.engaged, 0)
  | .leaving =>
    if delta < cfg.releaseLevel then
      (if debounce + 1 = cfg.exitDebounce then (.idle, 0) else (.leaving, debounce + 1))
    else (.engaged, 0)
  | .disabled => (.disabled, debounce)
  | .calibrating => (.calibrating, debounce)
  | .fault => (.fault, debounce)

/-- Beta: the fast one while the count lies against the event direction, fraction included (R86). -/
def beta (cfg : Settings) (c : Half) (baseline : Nat) : Nat :=
  match cfg.direction with
  | .rising => if 256 * c.toNat < baseline then cfg.fastBeta else cfg.slowBeta
  | .falling => if baseline < 256 * c.toNat then cfg.fastBeta else cfg.slowBeta
  | .either => cfg.slowBeta

/-- Step 7: the moved baseline, in units of 1/256, quotient toward zero (R85). -/
def filtered (cfg : Settings) (c : Half) (baseline : Nat) : Nat :=
  let d : Int := 256 * (c.toNat : Int) - baseline
  ((baseline : Int) + Int.tdiv d (2 ^ beta cfg c baseline)).toNat

/-- Step 8: the stuck counter after a measurement that finds and leaves the point engaged, up to 65535 (R88). -/
def nextStuck (n : Nat) : Nat := if n < 65535 then n + 1 else n

/-- The recalibration-follows flag of a stuck reseed (R90). -/
def Settings.recalFollows (cfg : Settings) (c : Half) : Bool := cfg.autoRecalibrate && decide (cfg.calBand < cfg.targetDistance c)

/-- A RESEED record's detail: bit 0 cause STUCK, bit 1 recalibration-follows (13, Journal records). -/
def reseedDetail (stuck follows : Bool) : Half := (BitVec.ofBool follows ++ BitVec.ofBool stuck).setWidth 16

/-! ### The events of the pipeline -/

/-- Step 1: a saturated count (R74). -/
def saturate (p : PointId) (pt : Point) (c : Half) : Measured :=
  let pt' := { pt with lastCount := c, state := .fault, faultCause := .saturated, debounce := 0, stuck := 0,
                       lastRawDelta := 0, lastDelta := 0, armedReseed := false, seedPending := false }
  { pt := pt', record := some (pointRecord .saturated p pt' 0 0 c pt.baseline pt.stuck), trip := some .pointFault }

/-- Step 2: an armed reseed is taken (R75). -/
def reseedByRequest (p : PointId) (pt : Point) (c : Half) : Measured :=
  let pt' := { pt with lastCount := c, baseline := 256 * c.toNat, state := .idle, debounce := 0, stuck := 0, lastRawDelta := 0,
                       lastDelta := 0, armedReseed := false, seedPending := false }
  { pt := pt', record := some (pointRecord .reseed p pt' (reseedDetail false false) 0 c pt'.baseline pt.stuck), trip := none }

/-- Step 3: the seed-pending measurement (R51). -/
def seed (pt : Point) (c : Half) : Measured :=
  { pt := { pt with lastCount := c, baseline := 256 * c.toNat, seedPending := false }, record := none, trip := none }

/-- A stuck reseed at step 8 (R89, R90). `pt` holds the measurement's results so far. -/
def reseedStuck (p : PointId) (pt : Point) (c : Half) (delta : Int) : Measured :=
  let follows := pt.cfg.recalFollows c
  let pt' := { pt with baseline := 256 * c.toNat, state := .idle, debounce := 0, stuck := 0, lastRawDelta := 0, lastDelta := 0,
                       armedRecal := pt.armedRecal || follows }
  { pt := pt', record := some (pointRecord .reseed p pt' (reseedDetail true follows) delta c pt'.baseline pt.cfg.stuckLimit),
    trip := none }

/-- Steps 4 to 8 (R76 to R90), with the record of step 6 (R91) and the cause of an urgent engagement (R84). -/
def track (p : PointId) (pt : Point) (g : GroupView) (c : Half) : Measured :=
  let raw := rawDelta pt.cfg.direction c pt.baseline
  let delta := raw - g.compensation
  let moved := engagement pt.cfg g.vetoed pt.state pt.debounce delta
  let base := if moved.1 = .idle ∧ g.halted = false then filtered pt.cfg c pt.baseline else pt.baseline
  let pt' := { pt with lastCount := c, lastRawDelta := raw, lastDelta := delta, state := moved.1, debounce := moved.2, baseline := base }
  if pt.state.isEngaged then
    if moved.1.isEngaged then
      let stuck := nextStuck pt.stuck
      if pt.cfg.stuckLimit ≠ 0 ∧ stuck = pt.cfg.stuckLimit then reseedStuck p pt' c delta
      else { pt := { pt' with stuck := stuck }, record := none, trip := none }
    else
      { pt := { pt' with stuck := 0 }
        record := some (pointRecord .disengage p pt' 0 delta c base pt.stuck), trip := none }
  else if moved.1 = .engaged then
    { pt := pt', record := some (pointRecord .engage p pt' 0 delta c base 0)
      trip := if pt.cfg.urgent then some .engaged else none }
  else { pt := pt', record := none, trip := none }

/-- The detection measurement (R73): each step ends it or passes on. -/
def detect (p : PointId) (pt : Point) (g : GroupView) (c : Half) : Measured :=
  if isSaturated c then saturate p pt c
  else if pt.armedReseed then reseedByRequest p pt c
  else if pt.seedPending then seed pt c
  else track p pt g c

/-- What a slot's completed conversion does with a point (R42): a calibration step, or the detection pipeline. -/
def measure (p : PointId) (pt : Point) (g : GroupView) (c : Half) : Measured :=
  match pt.state with
  | .calibrating => calibrationStep p pt c
  | .idle => detect p pt g c
  | .entering => detect p pt g c
  | .engaged => detect p pt g c
  | .leaving => detect p pt g c
  | .fault => { pt := { pt with lastCount := c }, record := none, trip := none }
  | .disabled => { pt := { pt with lastCount := c }, record := none, trip := none }

end Sys2Proof.Machine
end

