-- ==== Sys2Proof/Machine/Converter.lean ====
section
/-! DEFINITION. 03 The converter, and 09 the spot unit's hold on it: requests, grants, releases, the spot unit's write list, and the ends of a spot. -/

namespace Sys2Proof.Machine

/-! ### The arbiter (R45, R47) -/

/-- The values a conversion of a point takes at its grant (R45). -/
def Point.conversion (pt : Point) : Conversion := { integration := pt.cfg.integration, tuning := pt.tuning }

/-- The length of a conversion in microseconds (R45). -/
def Conversion.micros (c : Conversion) : Nat := c.integration * 64

/-- The record of a point at the grant of its slot's conversion: a calibrating point is prepared for its step (R59). -/
def Point.atGrant (pt : Point) : Point :=
  if pt.state = .calibrating then { pt with tuning := prepare pt.calPhase pt.calStep pt.tuning } else pt

/-- The converter is granted to the scan engine for point `p` (R45, R47, R59). -/
def grantScan (p : PointId) (s : State) : State :=
  let pt := (s.point p).atGrant
  (s.setPoint p pt).setArb { s.arb with grant := .scan pt.conversion, scanWaits := false }

/-- A spot's sums before its first sub-conversion (R150). -/
def SpotSums.zero : SpotSums := { done := 0, sum := 0, least := 0, greatest := 0, saturated := 0 }

/-- The converter is granted to a QUEUED spot, which begins its first sub-conversion (R47, R151). -/
def grantSpot (s : State) : State :=
  match s.spt.state with
  | .queued h =>
    (s.setArb { s.arb with grant := .spot (s.point h.point).conversion, spotWaits := false }).setSpt
      { s.spt with state := .converting h SpotSums.zero none }
  | _ => s.setArb { s.arb with spotWaits := false }

/-- The scan engine requests the conversion of the slot in progress (R47). -/
def requestScan (p : PointId) (s : State) : State :=
  if s.arb.grant = .free ∧ s.arb.spotWaits = false then grantScan p s
  else s.setArb { s.arb with scanWaits := true }

/-- The spot unit requests the converter (R47, R150). -/
def requestSpot (s : State) : State :=
  if s.arb.grant = .free then grantSpot s else s.setArb { s.arb with spotWaits := true }

/-- The converter becomes FREE: a waiting spot is granted, otherwise a waiting scan conversion (R47). -/
def releaseConverter (s : State) : State :=
  let s' := s.setArb { s.arb with grant := .free }
  if s.arb.spotWaits then grantSpot s'
  else if s.arb.scanWaits then
    match s.eng.slot with
    | some p => grantScan p s'
    | none => s'.setArb { s'.arb with scanWaits := false }
  else s'

/-- A waiting scan request is withdrawn (R48). -/
def withdrawScan (s : State) : State := s.setArb { s.arb with scanWaits := false }

/-- A waiting spot request is withdrawn (R48). -/
def withdrawSpot (s : State) : State := s.setArb { s.arb with spotWaits := false }

/-! ### The spot unit's write list (R148) -/

/-- What the memory port calls a write of the spot unit. -/
def SpotWriteKind.access : SpotWriteKind → AccessKind
  | .result => .spotWrite
  | .closed => .spotWrite
  | .snapshotRecord => .snapshotWrite

/-- A write joins the spot unit's list; it is issued at once when no earlier one is outstanding. -/
def pushSpot (w : SpotWrite) (s : State) : State :=
  let s' := s.setSpt { s.spt with writes := s.spt.writes ++ [w] }
  match s.spt.writes with
  | [] => issue w.kind.access w.addr w.data s'
  | _ :: _ => s'

/-- Writes join the list in order. -/
def pushSpots : List SpotWrite → State → State
  | [], s => s
  | w :: ws, s => pushSpots ws (pushSpot w s)

/-- The write issued has completed: it leaves the list and the next one is issued (R148). -/
def nextSpotWrite (s : State) : State :=
  match s.spt.writes with
  | _ :: w :: rest => issue w.kind.access w.addr w.data (s.setSpt { s.spt with writes := w :: rest })
  | _ => s.setSpt { s.spt with writes := [] }

/-! ### Acceptance and the ends of a spot -/

/-- Set or clear a point's spot-busy mark (R53). -/
def State.setBusy (s : State) (p : PointId) (b : Bool) : State := s.setPoint p { s.point p with spotBusy := b }

/-- The request code of SPOT (13, Codes). -/
def spotKindCode : Byte := 14

/-- A spot ends with its result code: spot-busy cleared, CLOSING, result and CLOSED writes on the list (R152,
R53, R153; the block's host-written fields are written back, R188). -/
def endSpot (h : SpotHeld) (code : ResultCode) (value : Word) (params : List Word) (s : State) : State :=
  let s' := (s.setBusy h.point false).setSpt { s.spt with state := .closing h code }
  pushSpots
    [{ kind := .result, addr := h.addr + 8, data := resultWords h.tag code value params },
     { kind := .closed, addr := h.addr + 4, data := [statusWord 4 spotKindCode h.flags] }] s'

/-- An order to end the held spot (R53, R153, R154). A QUEUED spot ends at once, a CONVERTING one when its
running sub-conversion completes; the first order decides the code, and a CLOSING spot keeps its own. -/
def orderSpotEnd (code : ResultCode) (s : State) : State :=
  match s.spt.state with
  | .empty => s
  | .queued h => endSpot h code 0 [] (withdrawSpot s)
  | .converting h sums none => s.setSpt { s.spt with state := .converting h sums (some code) }
  | .converting _ _ (some _) => s
  | .closing _ _ => s

/-- The spot unit, EMPTY, accepts a SPOT: it records the spot, marks the point, requests the converter, and
the block becomes the walker's anchor (R150). -/
def acceptSpot (h : Held) (p : PointId) (multiplier : Nat) (s : State) : State :=
  let spot : SpotHeld :=
    { addr := h.addr, point := p, multiplier := multiplier, flags := blockByte h.block 6, tag := blockHalf h.block 8 }
  anchorAndLook h.addr (requestSpot ((s.setBusy p true).setSpt { s.spt with state := .queued spot }))

/-- A count enters the sums of a spot (R151). -/
def SpotSums.add (sums : SpotSums) (c : Half) : SpotSums :=
  { done := sums.done + 1
    sum := sums.sum + c.toNat
    least := if sums.done = 0 ∨ c.toNat < sums.least.toNat then c else sums.least
    greatest := if sums.done = 0 ∨ sums.greatest.toNat < c.toNat then c else sums.greatest
    saturated := if isSaturated c then sums.saturated + 1 else sums.saturated }

/-- A sub-conversion of the spot holding the converter completes (R151, R152, R53, R153). -/
def spotConversion (c : Half) (s : State) : State :=
  match s.arb.grant, s.spt.state with
  | .spot _, .converting h _ (some code) => endSpot h code 0 [] (releaseConverter s)
  | .spot _, .converting h sums none =>
    let sums' := sums.add c
    if sums'.done < h.multiplier then
      (s.setArb { s.arb with grant := .spot (s.point h.point).conversion }).setSpt
        { s.spt with state := .converting h sums' none }
    else endSpot h .done (BitVec.ofNat 32 h.multiplier) (spotParams sums' h.multiplier) (releaseConverter s)
  | _, _ => s

end Sys2Proof.Machine
end

