-- ==== Sys2Proof/Machine/JournalUnit.lean ====
section
/-! DEFINITION. 08_the_event_journal.md: the write list, opening and closing of pages, appending of records, admission, and the end of a frame. -/

namespace Sys2Proof.Machine

/-! ### The write list (R133) -/

/-- A write joins the list; it is issued at once when no earlier one is outstanding. -/
def pushJournal (w : JournalWrite) (s : State) : State :=
  let s' := s.setJrn { s.jrn with writes := s.jrn.writes ++ [w] }
  match s.jrn.writes with
  | [] => issue .journalWrite w.addr w.data s'
  | _ :: _ => s'

/-- The write issued has completed: it leaves the list and the next one is issued (R133). -/
def nextJournalWrite (s : State) : State :=
  match s.jrn.writes with
  | _ :: w :: rest => issue .journalWrite w.addr w.data (s.setJrn { s.jrn with writes := w :: rest })
  | _ => s.setJrn { s.jrn with writes := [] }

/-! ### Pages (R132, R135) -/

/-- The front page of the queue enters the open-page slot and its OPEN header write joins the list (R132
step 3, R128). -/
def openPage (a : Word) (rest : List Word) (s : State) : State :=
  let page : OpenPage :=
    { addr := a, sequence := s.jrn.pageSeq + 1, count := 0, used := 0, firstRecord := s.jrn.recordSeq + 1,
      firstFrame := s.eng.frameNumber, grew := false }
  pushJournal { addr := a, data := pageHeader page none, closes := none }
    (s.setJrn { s.jrn with queue := rest, page := some page, pageSeq := s.jrn.pageSeq + 1 })

/-- The page in the slot is closed (R135): slot empty, linger timer stopped, close mark none, CLOSED header
write on the list. -/
def closePage (cause : CloseCause) (s : State) : State :=
  match s.jrn.page with
  | none => s
  | some page =>
    pushJournal { addr := page.addr, data := pageHeader page (some cause), closes := some ⟨page.sequence, cause⟩ }
      (s.setJrn { s.jrn with page := none, lingerTimer := none, closeMark := .none })

/-! ### Records (R130) -/

/-- The writes of a record's words from an address: two accesses where a long record starts 48 bytes into a
64-byte block (R8, R130). -/
def pushRecord (addr : Word) (words : List Word) (s : State) : State :=
  if words.length = 8 ∧ addr.toNat % 64 = 48 then
    pushJournal { addr := addr + 16, data := words.drop 4, closes := none }
      (pushJournal { addr := addr, data := words.take 4, closes := none } s)
  else pushJournal { addr := addr, data := words, closes := none } s

/-- A record is appended to the open page (R128, R130); the first into a page starts the linger timer (R136). -/
def append (r : Record) (s : State) : State :=
  match s.jrn.page with
  | none => s
  | some page =>
    let sequence := s.jrn.recordSeq + 1
    let timer := if page.count = 0 ∧ s.jrn.linger ≠ 0 then some s.jrn.linger else s.jrn.lingerTimer
    pushRecord (page.addr + BitVec.ofNat 32 (32 + page.used)) (r.words sequence s.eng.frameInProgress)
      (s.setJrn { s.jrn with
        page := some { page with count := page.count + 1, used := page.used + r.size, grew := true }
        recordSeq := sequence
        lingerTimer := timer })

/-! ### Admission (R132, R138) -/

/-- The answer "admitted": frame open set, starved flag cleared (R132). -/
def admitted (s : State) : State := s.setJrn { s.jrn with frameOpen := true, starved := false }

/-- The answer "starved": the flag is set, and STARVED is raised when it was clear (R138). -/
def starve (s : State) : State :=
  if s.jrn.starved then s else raise .starved (s.setJrn { s.jrn with starved := true })

/-- The page has room for `r` bytes (R130). -/
def OpenPage.hasRoom (page : OpenPage) (r : Nat) : Bool := page.used + r ≤ Config.recordArea

/-- Steps 3 and 4 of R132, with the slot empty. -/
def openOrStarve (s : State) : Bool × State :=
  match s.jrn.queue with
  | a :: rest => (true, admitted (openPage a rest s))
  | [] => (false, starve s)

/-- The journal unit answers the admission question for a reservation `r` (R132): true is "admitted". -/
def askRoom (r : Nat) (s : State) : Bool × State :=
  match s.jrn.page with
  | some page => if page.hasRoom r then (true, admitted s) else openOrStarve (closePage .full s)
  | none => openOrStarve s

/-! ### Frame end (R134) -/

/-- A FLUSH_JOURNAL that waits is answered DONE (R134, R142). -/
def answerFlush (value : Word) (s : State) : State :=
  match s.wk.state with
  | .workingFlush h => answer h (Answer.done value) s
  | _ => s

/-- The new count of a page the frame has appended to is written (R134, its first row). -/
def writeCount (s : State) : State :=
  match s.jrn.page with
  | none => s
  | some page =>
    if page.grew then
      pushJournal { addr := page.addr, data := pageHeader page none, closes := none }
        (s.setJrn { s.jrn with page := some { page with grew := false } })
    else s

/-- The journal holds a page with at least one record. -/
def Journal.hasRecords (j : Journal) : Bool :=
  match j.page with
  | some page => page.count ≠ 0
  | none => false

/-- The journal unit is told that the frame is over (R134). -/
def journalFrameOver (s : State) : State :=
  let s' := s.setJrn { s.jrn with frameOpen := false, closeMark := .none }
  match s.jrn.closeMark with
  | .none => writeCount s'
  | .linger => closePage .linger s'
  | .flush => if s.jrn.hasRecords then closePage .flush s' else answerFlush 0 s'

/-! ### Linger (R137) -/

/-- The linger timer expires: the page is closed at once, or at the end of the frame in progress (R137). -/
def lingerExpires (s : State) : State :=
  match s.jrn.lingerTimer with
  | none => s
  | some _ =>
    let s' := s.setJrn { s.jrn with lingerTimer := none }
    if s.jrn.frameOpen then
      s'.setJrn { s'.jrn with closeMark := if s.jrn.closeMark = .flush then .flush else .linger }
    else closePage .linger s'

end Sys2Proof.Machine
end

