-- ==== Sys2Proof/Machine/Requests.lean ====
section
/-! DEFINITION. How the owning unit carries out each of the fourteen request kinds and what it answers (02, R30 to R32, and each kind's chapter). -/

namespace Sys2Proof.Machine

/-! ### Output unit (10) -/

/-- CONFIG_OUTPUT replaces one line record; its level is the request's for DIRECT, the wanted one for LINKED (R164). -/
def OutputUnit.configure (o : OutputUnit) (n : Fin 8) (l : Line) : OutputUnit :=
  let level := match l.owner with
    | .direct => l.level
    | .linked => l.wanted o.view
  { o with lines := o.lines.set n.val { l with level := level } n.isLt }

/-- CONFIG_OUTPUT (R164). -/
def applyConfigOutput (h : Held) (n : Fin 8) (l : Line) (s : State) : State :=
  let out := s.out.configure n l
  answer h (Answer.done out.active) (s.setOut out)

/-- Some line of the set is LINKED (R165). -/
def OutputUnit.anyLinked (o : OutputUnit) (lines : BitVec 8) : Bool :=
  (List.finRange 8).any fun n => lines.getLsbD n.val && (o.lines[n]).owner = .linked

/-- The lines of the set take their requested levels together (R165). -/
def OutputUnit.setLevels (o : OutputUnit) (lines : BitVec 8) (levels : Vector Bool 8) : OutputUnit :=
  { o with lines := Vector.ofFn fun n => if lines.getLsbD n.val then { o.lines[n] with level := levels[n] } else o.lines[n] }

/-- SET_OUTPUTS (R165). -/
def applySetOutputs (h : Held) (lines : BitVec 8) (levels : Vector Bool 8) (s : State) : State :=
  if s.out.anyLinked lines then answer h (Answer.refused .wrongOwner) s
  else
    let out := s.out.setLevels lines levels
    answer h (Answer.done out.active) (s.setOut out)

/-! ### Journal unit (08) -/

/-- The page is in the pool: queued or in the slot (R126). -/
def Journal.inPool (j : Journal) (a : Word) : Bool :=
  j.queue.contains a || (match j.page with
    | some page => page.addr = a
    | none => false)

/-- GIVE_PAGES (R140). -/
def applyGivePages (h : Held) (pages : List Word) (s : State) : State :=
  if Config.queueLimit < s.jrn.queue.length + pages.length ∨ pages.any s.jrn.inPool then
    answer h (Answer.refused .poolFull) s
  else
    let queue := s.jrn.queue ++ pages
    answer h (Answer.done (BitVec.ofNat 32 queue.length)) (s.setJrn { s.jrn with queue := queue })

/-- RECLAIM_PAGES (R141). -/
def applyReclaimPages (h : Held) (limit : Nat) (s : State) : State :=
  let taken := s.jrn.queue.take limit
  let rest := s.jrn.queue.drop limit
  answer h { code := .done, value := BitVec.ofNat 32 taken.length, params := reclaimParams taken rest.length }
    (s.setJrn { s.jrn with queue := rest })

/-- FLUSH_JOURNAL (R142). -/
def applyFlushJournal (h : Held) (s : State) : State :=
  if s.jrn.frameOpen then (s.setJrn { s.jrn with closeMark := .flush }).walkTo (.workingFlush h)
  else if s.jrn.hasRecords then closePage .flush (s.walkTo (.workingFlush h))
  else answer h (Answer.done 0) s

/-! ### Scan engine (03 to 07) -/

/-- The spot on a point being configured or released is ended ABORTED, its mark cleared in the same event (R53). -/
def abortSpotOn (p : PointId) (s : State) : State :=
  if (s.point p).spotBusy then (orderSpotEnd .aborted s).setBusy p false else s

/-- Steps 2 to 6 of R50 on the point's record. -/
def Point.configure (pt : Point) (cfg : Settings) : Point :=
  let pt' := { pt with cfg := cfg, tuning := cfg.gains, calPhase := .none, calStep := 0, armedReseed := false, armedRecal := false,
                       seedPending := false, faultCause := .none, debounce := 0, stuck := 0, lastRawDelta := 0, lastDelta := 0 }
  match cfg.calMode with
  | .none => { pt' with state := .idle, seedPending := true }
  | .offset => pt'.startCalibration
  | .full => pt'.startCalibration

/-- CONFIG_POINT (R50). -/
def applyConfigPoint (h : Held) (p : PointId) (cfg : Settings) (s : State) : State :=
  let s' := abortSpotOn p s
  answer h (Answer.done 0) (s'.updatePoint p ((s'.point p).configure cfg))

/-- Steps 2 to 4 of R54 on the point's record. -/
def Point.release (pt : Point) : Point :=
  { pt with calPhase := .none, calStep := 0, armedReseed := false, armedRecal := false, seedPending := false,
            faultCause := .none, state := .disabled }

/-- Step 5 of R54 on a group's record. -/
def Group.without (g : Group) (p : PointId) : Group :=
  if inSet g.members p then
    { g with members := withoutBit g.members p.val, reference := if g.reference = some p then none else g.reference }
  else g

/-- RELEASE_POINT (R54). -/
def applyReleasePoint (h : Held) (p : PointId) (s : State) : State :=
  let s' := abortSpotOn p s
  let s'' := s'.updatePoint p (s'.point p).release
  answer h (Answer.done 0) (s''.setEng { s''.eng with groups := Vector.ofFn fun i => (s''.eng.groups[i]).without p })

/-- A member of the set belongs to a group other than `i` (R99). -/
def groupConflict (groups : Vector Group 4) (i : Fin 4) (members : PointSet) : Bool :=
  (List.finRange 4).any fun j => j ≠ i && (groups[j].members &&& members) ≠ 0

/-- The record a CONFIG_GROUP leaves: the request's, or cleared for an empty member set (R99). -/
def Group.orCleared (g : Group) : Group := if g.members = 0 then Group.reset else g

/-- CONFIG_GROUP (R99). -/
def applyConfigGroup (h : Held) (i : Fin 4) (g : Group) (s : State) : State :=
  if groupConflict s.eng.groups i g.members then answer h (Answer.refused .groupConflict) s
  else
    answer h (Answer.done (BitVec.ofNat 32 (setSize g.members)))
      (s.setEng { s.eng with groups := s.eng.groups.set i.val g.orCleared i.isLt })

/-- SET_TIMING (R122). -/
def applySetTiming (h : Held) (t : Timing) (s : State) : State :=
  let eng := { s.eng with timing := t, quiet := 0, rate := if t.drowsyAfter = 0 then .brisk else s.eng.rate }
  answer h (Answer.done 0) ((s.setEng eng).setJrn { s.jrn with linger := t.linger })

/-- A RECALIBRATE arms the points that can take one (R69). -/
def Point.armRecal (pt : Point) : Point :=
  if pt.state = .fault ∨ pt.state.detecting then { pt with armedRecal := true } else pt

/-- A RESEED arms the points that can take one (R93). -/
def Point.armReseed (pt : Point) : Point := if pt.state.detecting then { pt with armedReseed := true } else pt

/-- The point table with a function applied to the points of a set. -/
def mapSet (set : PointSet) (f : Point → Point) (points : Vector Point 32) : Vector Point 32 :=
  Vector.ofFn fun p => if inSet set p then f points[p] else points[p]

/-- The number of points of a set with a mark set. -/
def countMarked (set : PointSet) (mark : Point → Bool) (points : Vector Point 32) : Nat :=
  ((pointsOf set).filter fun p => mark points[p]).length

/-- RECALIBRATE (R69). -/
def applyRecalibrate (h : Held) (set : PointSet) (s : State) : State :=
  let points := mapSet set Point.armRecal s.eng.points
  answer h (Answer.done (BitVec.ofNat 32 (countMarked set (·.armedRecal) points))) (s.setEng { s.eng with points := points })

/-- RESEED (R93). -/
def applyReseed (h : Held) (set : PointSet) (s : State) : State :=
  let points := mapSet set Point.armReseed s.eng.points
  answer h (Answer.done (BitVec.ofNat 32 (countMarked set (·.armedReseed) points))) (s.setEng { s.eng with points := points })

/-- The writes of a snapshot: one record a point in ascending order, at consecutive 32-byte places (R156). -/
def snapshotWrites (eng : ScanEngine) (buffer : Word) : List PointId → List SpotWrite
  | [] => []
  | p :: ps =>
    { kind := .snapshotRecord, addr := buffer, data := snapshotWords p eng.points[p] (groupOf eng.groups p) } ::
      snapshotWrites eng (buffer + 32) ps

/-- SNAPSHOT (R156): the copies are handed to the spot unit; an empty set is reported at once with 0. -/
def applySnapshot (h : Held) (buffer : Word) (set : PointSet) (s : State) : State :=
  match pointsOf set with
  | [] => answer h (Answer.done 0) s
  | ps =>
    pushSpots (snapshotWrites s.eng buffer ps)
      ((s.setSpt { s.spt with snapshot := some { total := ps.length, left := ps.length } }).walkTo (.awaiting h .applied))

/-- MARK (R143). -/
def applyMark (h : Held) (tag : Half) (s : State) : State :=
  match s.eng.mark with
  | some _ => answer h (Answer.refused .markBusy) s
  | none => answer h (Answer.done 0) (s.setEng { s.eng with mark := some { tag := tag, addr := h.addr } })

/-! ### Spot unit (09) -/

/-- SPOT: the hand-off question, then acceptance or supersession (R32, R150, R153); in STOPPING the walker
closes the block ABORTED (R34, R150). -/
def applySpot (h : Held) (p : PointId) (multiplier : Nat) (s : State) : State :=
  if s.ctl.op = .stopping then answer h (Answer.refused .aborted) s
  else
    match (s.point p).state with
    | .disabled => answer h (Answer.refused .pointDisabled) s
    | .calibrating => answer h (Answer.refused .pointBusy) s
    | _ =>
      match s.spt.state with
      | .empty => acceptSpot h p multiplier s
      | _ => orderSpotEnd .superseded (s.walkTo (.workingSpot h))

/-! ### The request the walker holds -/

/-- The scan engine applies a boundary request (R121). -/
def applyBoundary (h : Held) (r : Request) (s : State) : State :=
  match r with
  | .configPoint p cfg => applyConfigPoint h p cfg s
  | .releasePoint p => applyReleasePoint h p s
  | .configGroup i g => applyConfigGroup h i g s
  | .setTiming t => applySetTiming h t s
  | .recalibrate set => applyRecalibrate h set s
  | .reseed set => applyReseed h set s
  | .snapshot buffer set => applySnapshot h buffer set s
  | .mark tag => applyMark h tag s
  | .configOutput _ _ => s
  | .setOutputs _ _ => s
  | .givePages _ => s
  | .reclaimPages _ => s
  | .flushJournal => s
  | .spot _ _ => s

/-- The block of a boundary request that the scan engine has not yet applied (R31). -/
def WalkerState.unapplied : WalkerState → Option Held
  | .awaiting h .passed => some h
  | .awaiting h .waits => some h
  | _ => none

/-- The boundary request that the scan engine has not yet applied (R31), with its block. -/
def State.waitingBoundary (s : State) : Option (Held × Request) :=
  match s.wk.state.unapplied with
  | some h =>
    match parse h.block with
    | .ok r => if r.cls = .boundary then some (h, r) else none
    | .error _ => none
  | none => none

/-- The request in WORKING that its unit has not yet answered (R30, R32), with its block. -/
def State.workingRequest (s : State) : Option (Held × Request) :=
  match s.wk.state with
  | .workingUnit h =>
    match parse h.block with
    | .ok r => some (h, r)
    | .error _ => none
  | _ => none

/-- The engine applies the boundary request the walker holds, if any (R119 step 6, R123). -/
def applyWaiting (s : State) : State :=
  match s.waitingBoundary with
  | some (h, r) => applyBoundary h r s
  | none => s

/-- The engine applies the boundary request that has waited for the frame's end (R31, R119 step 6). -/
def applyReached (s : State) : State :=
  match s.wk.state with
  | .awaiting _ .waits => applyWaiting s
  | _ => s

/-- The walker, with the boundary request that it has passed, if any, at the engine inside a frame: the request waits for that
frame's end (R31, R121). -/
def Walker.reached (w : Walker) : Walker :=
  match w.state with
  | .awaiting h .passed => { w with state := .awaiting h .waits }
  | _ => w

/-- The boundary request that the walker has passed reaches the engine: between frames it is applied at once, and inside a
frame it waits for that frame's end (R31, R121). -/
def reachEngine (s : State) : State :=
  if s.betweenFrames then applyWaiting s else s.setWk s.wk.reached

end Sys2Proof.Machine
end

