-- ==== Sys2Proof/Machine/Frames.lean ====
section
/-! DEFINITION. 07_frames_and_scan_timing.md: reservation and admission, the slots of a frame, frame ends and cut frames, expiries of the frame timer. -/

namespace Sys2Proof.Machine

/-! ### Reservation (R114) -/

/-- What one point adds to the reservation (R114). -/
def Point.reserve (pt : Point) : Nat := if pt.enabled then (if pt.cfg.verbose then 32 else 16) else 0

/-- The frame's reservation: GAP room, one record a point enabled, an armed mark (R114). -/
def ScanEngine.reservation (e : ScanEngine) : Nat :=
  16 + (e.points.toList.map Point.reserve).sum + (if e.mark.isSome then 16 else 0)

/-- The GAP record (R131). -/
def gapRecord (gap : Word) : Record :=
  { kind := .gap, long := false, who := none, detail := 0, delta := gap, baseline := 0, count := 0, tuning := ⟨0, 0, 0⟩, stuck := 0 }

/-- The MARK record (R144). -/
def markRecord (m : MarkSlot) : Record :=
  { kind := .mark, long := false, who := none, detail := m.tag, delta := m.addr, baseline := 0, count := 0, tuning := ⟨0, 0, 0⟩,
    stuck := 0 }

/-! ### Slots (R42, R118) -/

/-- The slot of a point in this state requests a conversion (R42). -/
def Point.slotConverts (pt : Point) : Bool := pt.takesRecal || pt.state = .calibrating || pt.state.detecting

/-- The scan engine reaches a slot that requests a conversion: an armed recalibrate is taken first (R67). A boundary request
that the walker has passed by then has reached the engine (R31, log entry 11). -/
def startSlot (p : PointId) (s : State) : State :=
  let s' := if (s.point p).takesRecal then s.updatePoint p (s.point p).takeRecal else s
  requestScan p ((s'.setEng { s'.eng with slot := some p }).setWk s.wk.reached)

/-- The slots of these points in order, up to the first that requests a conversion (R42, R118); with none
left the frame is over. -/
def runSlots : List PointId → State → State
  | [], s => s.setEng { s.eng with slot := none }
  | p :: ps, s => if (s.point p).slotConverts then startSlot p s else runSlots ps s

/-- The points after `p`, in ascending index order. -/
def pointsAfter (p : PointId) : List PointId := (List.finRange 32).filter (p < ·)

/-! ### Admission (R115, R116) -/

/-- The GAP record of a frame admitted with a gap count above 0 (R115 step 2). -/
def reportGap (s : State) : State :=
  if s.eng.gap = 0 then s
  else
    let s' := append (gapRecord s.eng.gap) s
    s'.setEng { s'.eng with gap := 0 }

/-- The MARK record of a frame admitted with a mark armed (R115 step 3, R144). -/
def reportMark (s : State) : State :=
  match s.eng.mark with
  | none => s
  | some m =>
    let s' := append (markRecord m) s
    s'.setEng { s'.eng with mark := none }

/-- The engine enters SCANNING and the frame takes the frame number (R115 step 1). A start still pending is an expiry that
begins no frame of its own, and is counted (R117, log entry 28). A boundary request that the walker has passed and the engine
has not applied waits for this frame's end (R31). -/
def enterFrame (s : State) : State :=
  (s.setEng { s.eng with
    frameState := .scanning
    frameInProgress := s.eng.frameNumber
    gap := s.eng.gap + (if s.eng.startPending then 1 else 0)
    startPending := false }).setWk s.wk.reached

/-- The frame is admitted (R115). -/
def beginFrame (s : State) : State := runSlots (List.finRange 32) (reportMark (reportGap (enterFrame s)))

/-- The frame is skipped (R116). -/
def skipFrame (s : State) : State :=
  frameBoundary (capture false (s.setEng { s.eng with frameState := .waiting, gap := s.eng.gap + 1 }))

/-- The admission check (R115, R132). -/
def admissionCheck (s : State) : State :=
  match askRoom s.eng.reservation s with
  | (true, s') => beginFrame s'
  | (false, s') => skipFrame s'

/-! ### Frame end (R119, R120) -/

/-- Every enabled point is IDLE (R120). -/
def ScanEngine.allQuiet (e : ScanEngine) : Bool := e.points.toList.all fun pt => pt.state = .disabled || pt.state = .idle

/-- The quiet judgment (R120). -/
def ScanEngine.judge (e : ScanEngine) : ScanEngine :=
  if e.allQuiet then
    let quiet := if e.quiet < 65535 then e.quiet + 1 else e.quiet
    let rate := if e.rate = .brisk ∧ e.timing.drowsyAfter ≠ 0 ∧ e.timing.drowsyAfter ≤ quiet then .drowsy else e.rate
    { e with quiet := quiet, rate := rate }
  else
    match e.rate with
    | .brisk => { e with quiet := 0 }
    | .drowsy => { e with quiet := 0, rate := .brisk, frameTimer := some e.timing.brisk }

/-- The period of the scan rate (R109). -/
def ScanEngine.period (e : ScanEngine) : Nat :=
  match e.rate with
  | .brisk => e.timing.brisk
  | .drowsy => e.timing.drowsy

/-- The frame timer restarts at its expiry and the frame number increases (R109, R110). -/
def ScanEngine.restarted (e : ScanEngine) : ScanEngine :=
  { e with frameTimer := some e.period, frameNumber := e.frameNumber + 1 }

/-- An expiry in SCANNING sets the start pending mark or adds to the merged count (R113). -/
def ScanEngine.expiredInFrame (e : ScanEngine) : ScanEngine :=
  if e.startPending then { e.restarted with merged := e.merged + 1 } else { e.restarted with startPending := true }

/-- Expiries that arrive between two steps of a frame's end, in SCANNING (R119, R113). A stopped timer has none. -/
def expiriesInFrame : Nat → State → State
  | 0, s => s
  | n + 1, s => if s.eng.frameTimer = none then s else expiriesInFrame n (s.setEng s.eng.expiredInFrame)

/-- Step 3 of R119. -/
def addMerged (s : State) : State := s.setEng { s.eng with gap := s.eng.gap + s.eng.merged, merged := 0 }

/-- Expiries that arrive in the end of a frame after its step 3. Those that are merged are counted in the same end (R113,
R117; log entry 28). -/
def expiriesCounted (n : Nat) (s : State) : State := addMerged (expiriesInFrame n s)

/-- The engine leaves SCANNING: steps 1 to 6 of R119 but for the boundary request that waits, each with the expiries that
arrive after it (log entry 28). -/
def leaveScanning (x : EndExpiries) (s : State) : State :=
  let s1 := expiriesInFrame x.judged (s.setEng s.eng.judge)
  let s2 := expiriesInFrame x.told (journalFrameOver s1)
  let s3 := expiriesCounted x.counted (addMerged s2)
  let s4 := expiriesCounted x.captured (capture false s3)
  let s5 := expiriesCounted x.announced (frameBoundary s4)
  s5.setEng { s5.eng with frameState := .waiting }

/-- The end of an admitted frame with no expiry inside it, steps 1 to 6 of R119. -/
def endFrame (s : State) : State := applyWaiting (leaveScanning .zero s)

/-- A frame is in progress and its last slot is done. -/
def State.frameDone (s : State) : Bool := s.eng.frameState = .scanning && s.eng.slot = none

/-- A frame whose last slot is done ends with no expiry inside its end, and a pending start is admitted (R119 step 7).
The frame that admission begins can be done at once too; no start is pending then. -/
def finishPlain (s : State) : State :=
  if s.frameDone then
    let s1 := endFrame s
    if s1.eng.startPending then
      let s2 := admissionCheck (s1.setEng { s1.eng with startPending := false })
      if s2.frameDone then endFrame s2 else s2
    else s1
  else s

/-! ### Expiries (R109, R112, R113) -/

/-- An expiry of the frame timer: restart, next frame number, and the admission check, the start pending
mark or the merged count (R109, R110, R112, R113). `finish` ends the frame that the check admits, if it is done at once; it
takes the first of the entries of `ends`, and the others are given back with the state. A stopped timer has none. -/
def expire (finish : List EndExpiries → State → List EndExpiries × State) (ends : List EndExpiries) (s : State) :
    List EndExpiries × State :=
  match s.eng.frameTimer with
  | none => (ends, s)
  | some _ =>
    match s.eng.frameState with
    | .waiting => finish ends (admissionCheck (s.setEng s.eng.restarted))
    | .scanning => (ends, s.setEng s.eng.expiredInFrame)
    | .parked => (ends, s.setEng s.eng.restarted)
    | .cutting => (ends, s.setEng s.eng.restarted)

/-- Expiries that no other event separates. -/
def expireTimes (finish : List EndExpiries → State → List EndExpiries × State) :
    Nat → List EndExpiries → State → List EndExpiries × State
  | 0, ends, s => (ends, s)
  | n + 1, ends, s => expireTimes finish n (expire finish ends s).1 (expire finish ends s).2

/-- A frame whose last slot is done ends, and a pending start is admitted (R119 step 7); the frame that admission begins can
be done at once too. Each frame that ends in the event takes the next entry of `ends`, the expiries inside its end, and none
when there is no entry left; the entries not taken are given back. A boundary request that has waited for the frame's end is
applied before any expiry is taken in WAITING (R31); one passed too late for that reaches the engine where the entry says. An
expiry in WAITING can begin a frame before step 7, which then finds no mark. `fuel` is the number of entries. -/
def finishFrame : (fuel : Nat) → List EndExpiries → State → List EndExpiries × State
  | 0, ends, s => (ends, finishPlain s)
  | _ + 1, [], s => ([], finishPlain s)
  | n + 1, x :: xs, s =>
    if s.frameDone then
      let r := expireTimes (finishFrame n) x.unreached xs (applyReached (leaveScanning x s))
      let r' := expireTimes (finishFrame n) x.left r.1 (reachEngine r.2)
      if r'.2.eng.startPending ∧ r'.2.eng.frameState = .waiting then
        finishFrame n r'.1 (admissionCheck (r'.2.setEng { r'.2.eng with startPending := false }))
      else r'
    else (x :: xs, s)

/-- FRAME_TIMER_EXPIRY's event. -/
def frameExpiry (ends : List EndExpiries) (s : State) : State := (expire (finishFrame ends.length) ends s).2

/-- The engine parks after a cut frame (R123), the boundary request that waits not yet applied. -/
def leaveCut (s : State) : State :=
  let s1 := journalFrameOver s
  let pendingOne : Word := if s1.eng.startPending then 1 else 0
  s1.setEng { s1.eng with
    gap := s1.eng.gap + s1.eng.merged + pendingOne, merged := 0, startPending := false, slot := none, frameState := .parked }

/-- The end of a cut frame (R123). -/
def cutEnd (s : State) : State := applyWaiting (leaveCut s)

/-! ### A slot's conversion completes (R42) -/

/-- A record is appended if there is one. -/
def appendSome (r : Option Record) (s : State) : State :=
  match r with
  | some r => append r s
  | none => s

/-- TRIP is raised if the measurement gave a cause (R84, R74, R63). -/
def raiseTrip (p : PointId) (k : Option TripKind) (s : State) : State :=
  match k with
  | some .engaged => raise (.engaged p) s
  | some .pointFault => raise (.pointFault p) s
  | none => s

/-- The work of the slot whose conversion has completed: the point's step or detection, its report, record
and cause (R42, R43). -/
def measurePoint (p : PointId) (c : Half) (s : State) : State :=
  let m := measure p (s.point p) (groupView s.eng.points s.eng.groups p) c
  raiseTrip p m.trip (appendSome m.record (s.updatePoint p m.pt))

/-- A scan conversion completes: the slot's work, the converter free, then the next slot or the frame's end
(R42, R47, R119, R123). With no scan conversion running there is none to complete (R48). -/
def scanConversion (c : Half) (ends : List EndExpiries) (s : State) : State :=
  match s.arb.grant, s.eng.slot with
  | .scan _, some p =>
    let s1 := releaseConverter (measurePoint p c s)
    match s1.eng.frameState with
    | .scanning => (finishFrame ends.length ends (runSlots (pointsAfter p) s1)).2
    | .cutting => cutEnd s1
    | .parked => s1
    | .waiting => s1
  | _, _ => s

/-- The scan engine's part of the stop order (R123). -/
def stopScan (s : State) : State :=
  let s' := s.setEng { s.eng with frameTimer := none }
  match s.eng.frameState with
  | .waiting => s'.setEng { s'.eng with frameState := .parked }
  | .scanning =>
    match s.arb.grant with
    | .scan _ => s'.setEng { s'.eng with frameState := .cutting }
    | .free => cutEnd (withdrawScan s')
    | .spot _ => cutEnd (withdrawScan s')
  | .parked => s'
  | .cutting => s'

end Sys2Proof.Machine
end

