-- ==== Sys2Proof/Machine/Control.lean ====
section
/-! DEFINITION. 11_operating_states_registers_and_attention.md and 01 Memory faults: resets, CONTROL writes, leaving OFF, stop and resume, memory faults, entry to STOPPED, and the attention registers. -/

namespace Sys2Proof.Machine

/-! ### Resets (R176) -/

/-- The attention unit after a software reset: the enables are kept (R176, R186). -/
def Attention.cleared (a : Attention) : Attention :=
  { fault := { ClassAttn.reset with enabled := a.fault.enabled }
    trip := { ClassAttn.reset with enabled := a.trip.enabled }
    journal := { ClassAttn.reset with enabled := a.journal.enabled }
    chain := { ClassAttn.reset with enabled := a.chain.enabled }
    tripIndex := none }

/-- Either reset: accesses are abandoned (R13), a page whose header write did not complete keeping the header of its last
completed write (R147), and every unit takes its reset values; shared memory, the queue and the model's own fields stay. -/
def resetUnits (s : State) : State :=
  let s' := abandonAccesses Access.writesHeader s
  { State.reset with mem := s'.mem, tick := s'.tick, readData := s.readData, pending := s.pending }

/-- A hardware reset; `heldLow` while RESETn stays low (R176). -/
def hardwareReset (heldLow : Bool) (s : State) : State :=
  let r := resetUnits s
  r.setCtl { r.ctl with resetHeld := heldLow }

/-- A software reset keeps AREA_BASE and ATTN_ENABLE (R176). -/
def softwareReset (s : State) : State :=
  let r := resetUnits s
  (r.setCtl { r.ctl with areaBase := s.ctl.areaBase }).setAtn s.atn.cleared

/-! ### Leaving OFF (R170, R171, R2, R3) -/

/-- RUN set in OFF: LOADING, and the walker issues the header read (R170, R2). -/
def startLoading (s : State) : State :=
  issue .headerRead s.ctl.areaBase [] (s.setCtl { s.ctl with op := .loading, run := true, refusedWrite := false })

/-- The header's signature and version are the ones the device checks (R2). -/
def headerValid (half : Vector Word 8) : Bool :=
  half.toList.getD 0 0 = Config.areaSignature && half.toList.getD 1 0 = Config.layoutVersion

/-- The brisk period the header gives: 1-1000 ms, else 20 ms (R3). -/
def headerBrisk (half : Vector Word 8) : Nat := (inRange 1 1000 (half.toList.getD 3 0).toNat).getD Config.defaultBrisk

/-- The timing settings on entry to RUNNING from LOADING (R108). -/
def Timing.withHeader (t : Timing) (brisk : Nat) : Timing := { t with brisk := brisk, drowsy := max brisk t.drowsy }

/-- Entry to RUNNING from LOADING (R171, R21). -/
def enterRunning (half : Vector Word 8) (s : State) : State :=
  let timing := s.eng.timing.withHeader (headerBrisk half)
  ((s.setCtl { s.ctl with op := .running }).setEng
    { s.eng with timing := timing, frameTimer := some timing.brisk, frameState := .waiting }).setWk
    { state := .resting, anchor := .header, pendingLook := false, badLink := false }

/-- A refused header: OFF, RUN 0, LOAD_REFUSED (R2, R170). -/
def refuseHeader (s : State) : State := raise .loadRefused (s.setCtl { s.ctl with op := .off, run := false })

/-! ### Stop and resume (R172, R174) -/

/-- The walker's part of the stop order (R34): RESTING ends, a SPOT not yet accepted is closed ABORTED, the
pending look is cleared. -/
def stopWalker (s : State) : State :=
  let s' := s.setWk { s.wk with pendingLook := false }
  match s.wk.state with
  | .resting => s'.walkTo .idle
  | .workingSpot h => answer h (Answer.refused .aborted) s'
  | .workingUnit h =>
    match parse h.block with
    | .ok (.spot _ _) => answer h (Answer.refused .aborted) s'
    | _ => s'
  | _ => s'

/-- RUN cleared in RUNNING: STOPPING, with the stop order to every unit in R172's order. -/
def stopOrder (s : State) : State :=
  stopWalker (orderSpotEnd .aborted (stopScan (s.setCtl { s.ctl with op := .stopping, run := false, refusedWrite := false })))

/-- RUN set in STOPPED: the resume (R174, R109, R21). A LOOK in the same write merges with the pending look
the resume sets and uses at once (R178). -/
def resumeRunning (s : State) : State :=
  enterResting
    (((s.setCtl { s.ctl with op := .running, run := true, refusedWrite := false }).setEng
      { s.eng with frameTimer := some s.eng.period, frameState := .waiting }).setWk { s.wk with pendingLook := true })

/-! ### CONTROL and AREA_BASE writes (R178, R1) -/

/-- An accepted CONTROL write that changes no state: the refused-write flag is cleared and LOOK is heard in
RUNNING (R178 steps 3 and 4). -/
def acceptControl (look : Bool) (s : State) : State :=
  let s' := s.setCtl { s.ctl with refusedWrite := false }
  if look ∧ s.ctl.op = .running then hearLook s' else s'

/-- A CONTROL write that would change RUN, by operating state (R178 step 2). -/
def changeRun (s : State) : State :=
  match s.ctl.op with
  | .off => startLoading s
  | .running => stopOrder s
  | .stopped => resumeRunning s
  | .loading => s.setCtl { s.ctl with refusedWrite := true }
  | .stopping => s.setCtl { s.ctl with refusedWrite := true }
  | .faulted => s.setCtl { s.ctl with refusedWrite := true }

/-- A write to CONTROL (R178). While RESETn is held low writes are ignored (R176). -/
def controlWrite (data : Word) (s : State) : State :=
  if s.ctl.resetHeld then s
  else if Control.reset data then softwareReset s
  else if Control.run data = s.ctl.run then acceptControl (Control.look data) s
  else receiveTogether s.port.length (changeRun s)

/-- The stored part of a value written to AREA_BASE: the eight least significant bits taken as zero (R1). -/
def alignedArea (data : Word) : Word := data &&& 0xFFFFFF00#32

/-- A write to AREA_BASE (R1). -/
def areaBaseWrite (data : Word) (s : State) : State :=
  if s.ctl.resetHeld then s
  else if s.ctl.op = .off then s.setCtl { s.ctl with areaBase := alignedArea data }
  else s.setCtl { s.ctl with refusedWrite := true }

/-! ### Attention registers (R183-R185) -/

/-- The four enables of a written word (R183, 13 Registers). -/
def Attention.enable (a : Attention) (data : Word) : Attention :=
  { a with
    fault := { a.fault with enabled := data.getLsbD 0 }
    trip := { a.trip with enabled := data.getLsbD 1 }
    journal := { a.journal with enabled := data.getLsbD 2 }
    chain := { a.chain with enabled := data.getLsbD 3 } }

/-- Acknowledge a class: pending cleared, cause set emptied, TRIP's index none, in service (R184). -/
def Attention.acknowledge (a : Attention) (c : AttnClass) : Attention :=
  { a.setCls c { a.cls c with pending := false, causes := 0, inService := true } with
    tripIndex := if c = .trip then none else a.tripIndex }

/-- Take a class out of service (R185). -/
def Attention.endService (a : Attention) (c : AttnClass) : Attention := a.setCls c { a.cls c with inService := false }

/-- A read of ATTENTION (R184). -/
def attentionRead (s : State) : State :=
  match s.atn.highest with
  | some c => (s.setReadData (s.atn.vector c)).setAtn (s.atn.acknowledge c)
  | none => s.setReadData noneVector

/-- A write to ATTN_ENABLE (R183). -/
def attnEnableWrite (data : Word) (s : State) : State :=
  if s.ctl.resetHeld then s else s.setAtn (s.atn.enable data)

/-- A write to SERVICE, of any value (R185). -/
def serviceWrite (s : State) : State :=
  if s.ctl.resetHeld then s
  else
    match s.atn.serving with
    | some c => s.setAtn (s.atn.endService c)
    | none => s

/-! ### Memory faults (R12, R175) -/

/-- The units' part of the entry to FAULTED: walker (R36), scan engine (R124), arbiter (R48), journal unit
(R146), spot unit (R155), mirror writer (R6), output lines (R166). -/
def faultUnits (s : State) : State :=
  { s with
    wk := { s.wk with state := .idle, pendingLook := false }
    eng := { s.eng with frameTimer := none, frameState := .parked, slot := none }
    arb := { grant := .free, scanWaits := false, spotWaits := false }
    jrn := { s.jrn with writes := [], lingerTimer := none, closeMark := .none }
    spt := { state := .empty, writes := [], snapshot := none }
    mir := { writing := none, waiting := none, during := .between }
    out := { s.out with lines := Vector.ofFn fun n => (s.out.lines[n]).faulted, entryAfter := none } }

/-- A memory fault of the access on the interconnect (R12). A page whose CLOSED write faults keeps the header it last had
(R135, R146). With no access in flight there is none to fail. -/
def memoryFault (kind : FaultKind) (cause : Cause) (s : State) : State :=
  match s.port with
  | [] => s
  | a :: _ =>
    let s' := faultUnits (abandonAccesses Access.closesPage s)
    raise cause (s'.setCtl { s'.ctl with op := .faulted, faultKind := kind, faultAddr := a.addr })

/-- An event of the scan engine carried out. -/
def carryOut : ScanEvent → State → State
  | .scanConversion count ends, s => scanEvent (scanConversion count ends) s
  | .frameExpiry ends, s => scanEvent (frameExpiry ends) s
  | .boundary, s => if s.betweenFrames then applyWaiting s else s
  | .stopOrder, s => if s.ctl.op = .running then stopOrder s else s

/-- The state that an event of the scan engine leaves behind the access on the interconnect, the output unit taking as many
of its reports as come before the entry to FAULTED (R166; log entry 29). The accesses that the event issues are dropped
with the others the port has received (R12). -/
def beforeFault (r : FaultRace) (s : State) : State :=
  (carryOut r.event (s.setOut { s.out with entryAfter := some r.taken })).setPort s.port

/-- A memory fault, alone or together with an event of the scan engine (R12, R166). -/
def racedFault (kind : FaultKind) (cause : Cause) (race : Option FaultRace) (s : State) : State :=
  match s.port, race with
  | [], _ => s
  | _ :: _, none => memoryFault kind cause s
  | _ :: _, some r => memoryFault kind cause (beforeFault r s)

/-! ### Entry to STOPPED (R173) -/

/-- Every unit has settled (R173, its table). -/
def State.settled (s : State) : Bool :=
  s.wk.state = .idle && s.port.all (fun a => a.kind.agent ≠ .walker) &&
    s.eng.frameState = .parked &&
    s.arb.grant = .free && !s.arb.scanWaits && !s.arb.spotWaits &&
    s.spt.state = .empty && s.spt.writes = [] && s.spt.snapshot = none &&
    s.jrn.writes = [] && s.mir.writing = none

/-- The control unit enters STOPPED and the mirror writer captures and issues an image (R173, R5). -/
def enterStopped (s : State) : State :=
  if s.ctl.op = .stopping ∧ s.settled then capture true (s.setCtl { s.ctl with op := .stopped }) else s

end Sys2Proof.Machine
end

