-- ==== Sys2Proof/Machine/PortEvents.lean ====
section
/-! DEFINITION. The meanings of what the system interconnect answers: the completions of each agent's accesses, error responses, expired response limits and late responses. A completion is taken when the access on the interconnect is of its kind; any other response belongs to no access in flight and is discarded (R13, log entry 3). -/

namespace Sys2Proof.Machine

/-! ### The walker's reads -/

/-- The header read completes (R2). -/
def headerRead (half : Vector Word 8) (s : State) : State :=
  if s.serving .headerRead ∧ s.ctl.op = .loading then
    if headerValid half then enterRunning half (retire s) else refuseHeader (retire s)
  else s

/-- The walker acts on the link it has read (R24). -/
def takeLink (link : Word) (s : State) : State :=
  if link = 0 then enterResting (s.setWk { s.wk with badLink := false })
  else if link.toNat % 64 ≠ 0 then enterResting (s.setWk { s.wk with badLink := true })
  else issue .blockRead link [] (s.setWk { s.wk with badLink := false, state := .fetchBlock link })

/-- The link read completes; in STOPPING its outcome is discarded (R24, R34). -/
def linkRead (link : Word) (s : State) : State :=
  match s.wk.state with
  | .fetchLink =>
    if s.serving .linkRead then
      if s.ctl.op = .stopping then (retire s).walkTo .idle else takeLink link (retire s)
    else s
  | _ => s

/-- The walker acts on the block it has read: PENDING is written TAKEN, anything else leaves it resting (R25, R17). -/
def takeBlock (addr : Word) (block : Vector Word 16) (s : State) : State :=
  if blockByte block 4 = pendingCode then
    issue .takenWrite (addr + 4) [takenWord block] (s.walkTo (.fetchTaken { addr := addr, block := block }))
  else enterResting s

/-- The block read completes; in STOPPING its outcome is discarded (R25, R34). -/
def blockRead (block : Vector Word 16) (s : State) : State :=
  match s.wk.state with
  | .fetchBlock addr =>
    if s.serving .blockRead then
      if s.ctl.op = .stopping then (retire s).walkTo .idle else takeBlock addr block (retire s)
    else s
  | _ => s

/-! ### The walker's writes -/

/-- The held block is checked and the walker goes on by its class (R25, R28). -/
def goOnByClass (h : Held) (s : State) : State :=
  match parse h.block with
  | .error code => answer h (Answer.refused code) s
  | .ok r =>
    match r.cls with
    | .immediate => s.walkTo (.workingUnit h)
    | .detached => s.walkTo (.workingUnit h)
    | .boundary => s.walkTo (.awaiting h .passed)

/-- The TAKEN write completes (R25). -/
def takenWritten (s : State) : State :=
  match s.wk.state with
  | .fetchTaken h => if s.serving .takenWrite then goOnByClass h (retire s) else s
  | _ => s

/-- The result access completes: the CLOSED write follows (R18). -/
def resultWritten (s : State) : State :=
  match s.wk.state with
  | .closingResult h a =>
    if s.serving .resultWrite then
      issue .closedWrite (h.addr + 4) [closedWord h.block] ((retire s).walkTo (.closingStatus h a))
    else s
  | _ => s

/-- NOTIFY is raised for a closed block whose flags ask for it (R19). -/
def notifyIf (flags : Byte) (s : State) : State := if notifyBit flags then raise .notify s else s

/-- The block just closed becomes the anchor; a look follows, or IDLE in STOPPING (R26, R34). -/
def moveOn (h : Held) (s : State) : State :=
  if s.ctl.op = .stopping then s.setWk { s.wk with anchor := .block h.addr, state := .idle } else anchorAndLook h.addr s

/-- The CLOSED write completes (R26, R19). -/
def closedWritten (s : State) : State :=
  match s.wk.state with
  | .closingStatus h _ => if s.serving .closedWrite then moveOn h (notifyIf (blockByte h.block 6) (retire s)) else s
  | _ => s

/-! ### The other agents' writes -/

/-- A SPOT handed over and not yet accepted is accepted by the EMPTY spot unit (R32, R153). -/
def acceptWaitingSpot (s : State) : State :=
  match s.wk.state with
  | .workingSpot h =>
    match parse h.block with
    | .ok (.spot p m) => acceptSpot h p m s
    | _ => s
  | _ => s

/-- The spot's CLOSED write has completed: the unit is EMPTY, NOTIFY may be raised, a waiting SPOT is accepted
(R152, R19, R153). -/
def spotClosed (s : State) : State :=
  match s.spt.state with
  | .closing h _ => acceptWaitingSpot (notifyIf h.flags (s.setSpt { s.spt with state := .empty }))
  | _ => s

/-- A write of the spot unit's result or CLOSED word completes (R152). -/
def spotWritten (s : State) : State :=
  match s.spt.writes with
  | w :: _ =>
    if s.serving .spotWrite then
      let s' := nextSpotWrite (retire s)
      receiveTogether (s.port.length - 1) (if w.kind = .closed then spotClosed s' else s')
    else s
  | [] => s

/-- The last record of a snapshot is written: the number is reported and the walker closes the block (R156). -/
def snapshotDone (total : Nat) (s : State) : State :=
  match s.wk.state with
  | .awaiting h .applied => answer h (Answer.done (BitVec.ofNat 32 total)) s
  | _ => s

/-- A snapshot record is written (R156). -/
def snapshotWritten (s : State) : State :=
  match s.spt.snapshot with
  | some job =>
    if s.serving .snapshotWrite then
      let s' := nextSpotWrite (retire s)
      receiveTogether (s.port.length - 1)
        (if job.left ≤ 1 then snapshotDone job.total (s'.setSpt { s'.spt with snapshot := none })
         else s'.setSpt { s'.spt with snapshot := some { job with left := job.left - 1 } })
    else s
  | none => s

/-- A page's CLOSED header is written: PAGE_CLOSED, and the answer of the FLUSH_JOURNAL that closed it (R135,
R142). -/
def pageClosed (c : Closing) (s : State) : State :=
  let s' := raise .pageClosed s
  if c.cause = .flush then answerFlush c.sequence s' else s'

/-- A write of the journal unit completes (R133). -/
def journalWritten (s : State) : State :=
  match s.jrn.writes with
  | w :: _ =>
    if s.serving .journalWrite then
      let s' := nextJournalWrite (retire s)
      receiveTogether (s.port.length - 1) (match w.closes with
        | some c => pageClosed c s'
        | none => s')
    else s
  | [] => s

/-- The mirror write completes (R5). -/
def mirrorWritten (s : State) : State := if s.serving .mirrorWrite then nextImage (retire s) else s

/-! ### The commands -/

/-- HEADER_READ_COMPLETE (R2). -/
def execHeaderReadComplete (half : Vector Word 8) (s : State) : Host.Outcome State Fault Refusal := .next (headerRead half s)

/-- LINK_READ_COMPLETE (R24). -/
def execLinkReadComplete (link : Word) (s : State) : Host.Outcome State Fault Refusal := .next (linkRead link s)

/-- BLOCK_READ_COMPLETE (R25). -/
def execBlockReadComplete (block : Vector Word 16) (s : State) : Host.Outcome State Fault Refusal := .next (blockRead block s)

/-- TAKEN_WRITE_COMPLETE (R25). -/
def execTakenWriteComplete (s : State) : Host.Outcome State Fault Refusal := .next (takenWritten s)

/-- RESULT_WRITE_COMPLETE (R18). -/
def execResultWriteComplete (s : State) : Host.Outcome State Fault Refusal := .next (resultWritten s)

/-- CLOSED_WRITE_COMPLETE (R26). -/
def execClosedWriteComplete (s : State) : Host.Outcome State Fault Refusal := .next (closedWritten s)

/-- SPOT_WRITE_COMPLETE (R152). -/
def execSpotWriteComplete (s : State) : Host.Outcome State Fault Refusal := .next (spotWritten s)

/-- SNAPSHOT_RECORD_WRITE_COMPLETE (R156). -/
def execSnapshotRecordWriteComplete (s : State) : Host.Outcome State Fault Refusal := .next (snapshotWritten s)

/-- JOURNAL_WRITE_COMPLETE (R133). -/
def execJournalWriteComplete (s : State) : Host.Outcome State Fault Refusal := .next (journalWritten s)

/-- MIRROR_WRITE_COMPLETE (R5). -/
def execMirrorWriteComplete (s : State) : Host.Outcome State Fault Refusal := .next (mirrorWritten s)

/-- ERROR_RESPONSE: a MEM_ERROR memory fault (R12). -/
def execErrorResponse (s : State) (race : Option FaultRace := none) : Host.Outcome State Fault Refusal :=
  .next (racedFault .memError .memError race s)

/-- RESPONSE_LIMIT_EXPIRY: a MEM_TIMEOUT memory fault (R11, R12). -/
def execResponseLimitExpiry (s : State) (race : Option FaultRace := none) : Host.Outcome State Fault Refusal :=
  .next (racedFault .memTimeout .memTimeout race s)

/-- LATE_RESPONSE: the response belongs to an access abandoned or timed out and is discarded (R13). -/
def execLateResponse (s : State) : Host.Outcome State Fault Refusal := .next s

end Sys2Proof.Machine
end

