-- ==== Sys2Proof/Machine/RegisterPort.lean ====
section
/-! DEFINITION. The meanings of the register-port and reset commands: HARDWARE_RESET, RESETN_RISE, the CONTROL writes, AREA_BASE, ATTN_ENABLE, ATTENTION, SERVICE and the ignored writes, and ENTER_STOPPED. -/

namespace Sys2Proof.Machine

/-- HARDWARE_RESET (R176). -/
def execHardwareReset (heldLow : Bool) (s : State) : Host.Outcome State Fault Refusal := .next (hardwareReset heldLow s)

/-- SOFTWARE_RESET: a CONTROL write with RESET set (R176, R178). -/
def execSoftwareReset (data : Word) (s : State) : Host.Outcome State Fault Refusal := .next (controlWrite data s)

/-- RUN_SET: a CONTROL write with RUN 1 (R170, R178). -/
def execRunSet (data : Word) (s : State) : Host.Outcome State Fault Refusal := .next (controlWrite data s)

/-- RUN_CLEAR: a CONTROL write with RUN 0 (R172, R178). -/
def execRunClear (data : Word) (s : State) : Host.Outcome State Fault Refusal := .next (controlWrite data s)

/-- RESUME: a CONTROL write with RUN 1 in STOPPED (R174, R178). -/
def execResume (data : Word) (s : State) : Host.Outcome State Fault Refusal := .next (controlWrite data s)

/-- LOOK: a CONTROL write with LOOK set (R22, R178). -/
def execLook (data : Word) (s : State) : Host.Outcome State Fault Refusal := .next (controlWrite data s)

/-- ACCEPTED_CONTROL_WRITE: a CONTROL write that repeats the stored RUN, without LOOK (R178). -/
def execAcceptedControlWrite (data : Word) (s : State) : Host.Outcome State Fault Refusal := .next (controlWrite data s)

/-- AREA_BASE_WRITE (R1). -/
def execAreaBaseWrite (data : Word) (s : State) : Host.Outcome State Fault Refusal := .next (areaBaseWrite data s)

/-- ATTN_ENABLE_WRITE (R183). -/
def execAttnEnableWrite (data : Word) (s : State) : Host.Outcome State Fault Refusal := .next (attnEnableWrite data s)

/-- ATTENTION_READ (R184). -/
def execAttentionRead (s : State) : Host.Outcome State Fault Refusal := .next (attentionRead s)

/-- SERVICE_WRITE: the value written has no effect of its own (R185). -/
def execServiceWrite (_data : Word) (s : State) : Host.Outcome State Fault Refusal := .next (serviceWrite s)

/-- IGNORED_REGISTER_WRITE: nothing changes, the refused-write flag included (R177). -/
def execIgnoredRegisterWrite (_reg : IgnoredRegister) (_data : Word) (s : State) : Host.Outcome State Fault Refusal := .next s

/-- RESETN_RISE: the device leaves reset in OFF and the register port takes writes again (R176). -/
def execResetnRise (s : State) : Host.Outcome State Fault Refusal := .next (s.setCtl { s.ctl with resetHeld := false })

/-- ENTER_STOPPED (R173). -/
def execEnterStopped (s : State) : Host.Outcome State Fault Refusal := .next (enterStopped s)

end Sys2Proof.Machine
end

