-- ==== Sys2Proof/Machine/RequestSteps.lean ====
section
/-! DEFINITION. The meanings of the fourteen request kinds as commands: the owning unit carries out the request the walker holds. A boundary kind that reaches the scan engine inside a frame waits for the frame's end (R121); a kind the walker does not hold has nothing to act on (log entry 3). -/

namespace Sys2Proof.Machine

/-- A boundary kind reaches the scan engine: `f` gives its effect for a request of its kind. Between frames
it is applied at once; in SCANNING or CUTTING it waits there for the frame's end (R31, R121). -/
def boundaryStep (f : Held → Request → Option State) (s : State) : State :=
  match s.waitingBoundary with
  | some (h, r) =>
    match f h r with
    | some s' => if s.betweenFrames then receiveTogether s.port.length s' else s.setWk s.wk.reached
    | none => s
  | none => s

/-- A kind in WORKING is carried out through its unit at once (R30, R32). -/
def workingStep (f : Held → Request → Option State) (s : State) : State :=
  match s.workingRequest with
  | some (h, r) =>
    match f h r with
    | some s' => receiveTogether s.port.length s'
    | none => s
  | none => s

/-- CONFIG_OUTPUT (R164). -/
def execConfigOutput (s : State) : Host.Outcome State Fault Refusal :=
  .next (workingStep (fun h r => match r with
    | .configOutput n l => some (applyConfigOutput h n l s)
    | _ => none) s)

/-- SET_OUTPUTS (R165). -/
def execSetOutputs (s : State) : Host.Outcome State Fault Refusal :=
  .next (workingStep (fun h r => match r with
    | .setOutputs lines levels => some (applySetOutputs h lines levels s)
    | _ => none) s)

/-- GIVE_PAGES (R140). -/
def execGivePages (s : State) : Host.Outcome State Fault Refusal :=
  .next (workingStep (fun h r => match r with
    | .givePages pages => some (applyGivePages h pages s)
    | _ => none) s)

/-- RECLAIM_PAGES (R141). -/
def execReclaimPages (s : State) : Host.Outcome State Fault Refusal :=
  .next (workingStep (fun h r => match r with
    | .reclaimPages limit => some (applyReclaimPages h limit s)
    | _ => none) s)

/-- FLUSH_JOURNAL (R142). -/
def execFlushJournal (s : State) : Host.Outcome State Fault Refusal :=
  .next (workingStep (fun h r => match r with
    | .flushJournal => some (applyFlushJournal h s)
    | _ => none) s)

/-- CONFIG_POINT (R50). -/
def execConfigPoint (s : State) : Host.Outcome State Fault Refusal :=
  .next (boundaryStep (fun h r => match r with
    | .configPoint p cfg => some (applyConfigPoint h p cfg s)
    | _ => none) s)

/-- RELEASE_POINT (R54). -/
def execReleasePoint (s : State) : Host.Outcome State Fault Refusal :=
  .next (boundaryStep (fun h r => match r with
    | .releasePoint p => some (applyReleasePoint h p s)
    | _ => none) s)

/-- CONFIG_GROUP (R99). -/
def execConfigGroup (s : State) : Host.Outcome State Fault Refusal :=
  .next (boundaryStep (fun h r => match r with
    | .configGroup i g => some (applyConfigGroup h i g s)
    | _ => none) s)

/-- SET_TIMING (R122). -/
def execSetTiming (s : State) : Host.Outcome State Fault Refusal :=
  .next (boundaryStep (fun h r => match r with
    | .setTiming t => some (applySetTiming h t s)
    | _ => none) s)

/-- RECALIBRATE (R69). -/
def execRecalibrate (s : State) : Host.Outcome State Fault Refusal :=
  .next (boundaryStep (fun h r => match r with
    | .recalibrate set => some (applyRecalibrate h set s)
    | _ => none) s)

/-- RESEED (R93). -/
def execReseed (s : State) : Host.Outcome State Fault Refusal :=
  .next (boundaryStep (fun h r => match r with
    | .reseed set => some (applyReseed h set s)
    | _ => none) s)

/-- SNAPSHOT (R156). -/
def execSnapshot (s : State) : Host.Outcome State Fault Refusal :=
  .next (boundaryStep (fun h r => match r with
    | .snapshot buffer set => some (applySnapshot h buffer set s)
    | _ => none) s)

/-- MARK (R143). -/
def execMark (s : State) : Host.Outcome State Fault Refusal :=
  .next (boundaryStep (fun h r => match r with
    | .mark tag => some (applyMark h tag s)
    | _ => none) s)

/-- SPOT (R32, R150, R153). -/
def execSpot (s : State) : Host.Outcome State Fault Refusal :=
  .next (workingStep (fun h r => match r with
    | .spot p m => some (applySpot h p m s)
    | _ => none) s)

end Sys2Proof.Machine
end

