-- ==== Sys2Proof/Machine/Timers.lean ====
section
/-! DEFINITION. The meanings of the timer and converter commands: FRAME_TIMER_EXPIRY, LINGER_EXPIRY, SCAN_CONVERSION_COMPLETE and SPOT_SUBCONVERSION_COMPLETE. -/

namespace Sys2Proof.Machine

/-- FRAME_TIMER_EXPIRY (R112, R113). -/
def execFrameTimerExpiry (s : State) (ends : List EndExpiries := []) : Host.Outcome State Fault Refusal :=
  .next (scanEvent (frameExpiry ends) s)

/-- LINGER_EXPIRY (R137). -/
def execLingerExpiry (s : State) : Host.Outcome State Fault Refusal := .next (lingerExpires s)

/-- SCAN_CONVERSION_COMPLETE (R42). -/
def execScanConversionComplete (count : Half) (s : State) (ends : List EndExpiries := []) :
    Host.Outcome State Fault Refusal :=
  .next (scanEvent (scanConversion count ends) s)

/-- SPOT_SUBCONVERSION_COMPLETE (R151). -/
def execSpotSubconversionComplete (count : Half) (s : State) : Host.Outcome State Fault Refusal :=
  .next (receiveTogether s.port.length (spotConversion count s))

end Sys2Proof.Machine
end

