-- ==== Sys2Proof/Machine/Dispatch.lean ====
section
/-! DEFINITION. One arm per command: the meaning it calls. -/

namespace Sys2Proof.Machine

/-- The effect of a command on everything but the queue. -/
def exec (i : Instr) (s : State) : Host.Outcome State Fault Refusal :=
  match i with
  | .hardwareReset heldLow => Sys2Proof.Machine.execHardwareReset heldLow s
  | .softwareReset data => Sys2Proof.Machine.execSoftwareReset data s
  | .runSet data => Sys2Proof.Machine.execRunSet data s
  | .runClear data => Sys2Proof.Machine.execRunClear data s
  | .resume data => Sys2Proof.Machine.execResume data s
  | .look data => Sys2Proof.Machine.execLook data s
  | .areaBaseWrite data => Sys2Proof.Machine.execAreaBaseWrite data s
  | .attnEnableWrite data => Sys2Proof.Machine.execAttnEnableWrite data s
  | .attentionRead => Sys2Proof.Machine.execAttentionRead s
  | .serviceWrite data => Sys2Proof.Machine.execServiceWrite data s
  | .ignoredRegisterWrite reg data => Sys2Proof.Machine.execIgnoredRegisterWrite reg data s
  | .headerReadComplete half => Sys2Proof.Machine.execHeaderReadComplete half s
  | .errorResponse race => Sys2Proof.Machine.execErrorResponse s race
  | .responseLimitExpiry race => Sys2Proof.Machine.execResponseLimitExpiry s race
  | .lateResponse => Sys2Proof.Machine.execLateResponse s
  | .linkReadComplete link => Sys2Proof.Machine.execLinkReadComplete link s
  | .blockReadComplete block => Sys2Proof.Machine.execBlockReadComplete block s
  | .takenWriteComplete => Sys2Proof.Machine.execTakenWriteComplete s
  | .resultWriteComplete => Sys2Proof.Machine.execResultWriteComplete s
  | .closedWriteComplete => Sys2Proof.Machine.execClosedWriteComplete s
  | .configOutput => Sys2Proof.Machine.execConfigOutput s
  | .setOutputs => Sys2Proof.Machine.execSetOutputs s
  | .givePages => Sys2Proof.Machine.execGivePages s
  | .reclaimPages => Sys2Proof.Machine.execReclaimPages s
  | .flushJournal => Sys2Proof.Machine.execFlushJournal s
  | .configPoint => Sys2Proof.Machine.execConfigPoint s
  | .releasePoint => Sys2Proof.Machine.execReleasePoint s
  | .configGroup => Sys2Proof.Machine.execConfigGroup s
  | .setTiming => Sys2Proof.Machine.execSetTiming s
  | .recalibrate => Sys2Proof.Machine.execRecalibrate s
  | .reseed => Sys2Proof.Machine.execReseed s
  | .snapshot => Sys2Proof.Machine.execSnapshot s
  | .mark => Sys2Proof.Machine.execMark s
  | .spot => Sys2Proof.Machine.execSpot s
  | .frameTimerExpiry ends => Sys2Proof.Machine.execFrameTimerExpiry s ends
  | .scanConversionComplete count ends => Sys2Proof.Machine.execScanConversionComplete count s ends
  | .spotSubconversionComplete count => Sys2Proof.Machine.execSpotSubconversionComplete count s
  | .spotWriteComplete => Sys2Proof.Machine.execSpotWriteComplete s
  | .snapshotRecordWriteComplete => Sys2Proof.Machine.execSnapshotRecordWriteComplete s
  | .journalWriteComplete => Sys2Proof.Machine.execJournalWriteComplete s
  | .lingerExpiry => Sys2Proof.Machine.execLingerExpiry s
  | .mirrorWriteComplete => Sys2Proof.Machine.execMirrorWriteComplete s
  | .enterStopped => Sys2Proof.Machine.execEnterStopped s
  | .resetnRise => Sys2Proof.Machine.execResetnRise s
  | .acceptedControlWrite data => Sys2Proof.Machine.execAcceptedControlWrite data s

end Sys2Proof.Machine
end

