-- ==== Sys2Proof/Machine/Step.lean ====
section
/-! DEFINITION. One step of the block: the command at the front of the queue, or idling on an empty queue (log entry 1). -/

namespace Sys2Proof.Machine

/-- Take the command at the front of the queue and carry it out with the queue's rest; idle on an empty one. -/
def step (s : State) : Host.Outcome State Fault Refusal :=
  match s.pending with
  | [] => .next s
  | c :: rest => exec c (s.setPending rest)

/-- `s` with the command that a table word spells put at the front of its queue; `s` itself where the word
spells none (log entry 2). -/
def State.withFetchWord (s : State) (nbits w : Nat) : State :=
  match decodeTableWord nbits w with
  | some c => s.setPending (c :: s.pending)
  | none => s

end Sys2Proof.Machine
end

