-- ==== Sys2Proof/WellFormed.lean ====
section
/-! DEFINITION. When a command's operands fit its row: the fields of a CONTROL write that make it that row and no other (R178, 13 Registers). Every other row takes every value of its operands. -/

namespace Sys2Proof

/-- The command's data are a write of that row's kind. What depends on the device's state (is the write
accepted, does RUN repeat the stored RUN) is not a matter of form. -/
def Instr.wf : Instr → Bool
  | .softwareReset d => Control.reset d
  | .runSet d => Control.run d && !Control.reset d
  | .runClear d => !Control.run d && !Control.reset d
  | .resume d => Control.run d && !Control.reset d
  | .look d => Control.look d && !Control.reset d
  | .acceptedControlWrite d => !Control.look d && !Control.reset d
  | .hardwareReset _ => true
  | .areaBaseWrite _ => true
  | .attnEnableWrite _ => true
  | .attentionRead => true
  | .serviceWrite _ => true
  | .ignoredRegisterWrite _ _ => true
  | .headerReadComplete _ => true
  | .errorResponse _ => true
  | .responseLimitExpiry _ => true
  | .lateResponse => true
  | .linkReadComplete _ => true
  | .blockReadComplete _ => true
  | .takenWriteComplete => true
  | .resultWriteComplete => true
  | .closedWriteComplete => true
  | .configOutput => true
  | .setOutputs => true
  | .givePages => true
  | .reclaimPages => true
  | .flushJournal => true
  | .configPoint => true
  | .releasePoint => true
  | .configGroup => true
  | .setTiming => true
  | .recalibrate => true
  | .reseed => true
  | .snapshot => true
  | .mark => true
  | .spot => true
  | .frameTimerExpiry _ => true
  | .scanConversionComplete _ _ => true
  | .spotSubconversionComplete _ => true
  | .spotWriteComplete => true
  | .snapshotRecordWriteComplete => true
  | .journalWriteComplete => true
  | .lingerExpiry => true
  | .mirrorWriteComplete => true
  | .enterStopped => true
  | .resetnRise => true

end Sys2Proof
end

