-- ==== Sys2Proof/Safety.lean ====
section
/-! DEFINITION. What the statements speak of: the hypotheses and the effects that several statements share, spelled out from the rules in plain fields and numbers, and the states of the invariants. Nothing of the machine uses these. -/

namespace Sys2Proof.Machine

/-! ### Hypotheses shared by statements -/

/-- The data of a CONTROL write, none for a command that is not one (R178). -/
def controlData : Instr → Option Word
  | .softwareReset d => some d
  | .runSet d => some d
  | .runClear d => some d
  | .resume d => some d
  | .look d => some d
  | .acceptedControlWrite d => some d
  | _ => none

/-- The walker holds a request in WORKING that its unit has not yet answered (R30, R32). -/
def State.Working (s : State) (h : Held) (r : Request) : Prop :=
  s.wk.state = .workingUnit h ∧ parse h.block = .ok r

/-- The walker holds a boundary request that the scan engine has not yet applied (R31). -/
def State.Awaits (s : State) (h : Held) (r : Request) : Prop :=
  (s.wk.state = .awaiting h .passed ∨ s.wk.state = .awaiting h .waits) ∧ parse h.block = .ok r ∧ r.cls = .boundary

/-- Neither requester holds the converter or waits for it (R47). -/
def Arbiter.Idle (a : Arbiter) : Prop := a.grant = .free ∧ a.scanWaits = false ∧ a.spotWaits = false

/-- `q` is the first point after `p` whose slot requests a conversion (R42). -/
def State.NextSlot (s : State) (p q : PointId) : Prop :=
  p < q ∧ (s.point q).slotConverts = true ∧ ∀ r : PointId, p < r → r < q → (s.point r).slotConverts = false

/-- The kind of write that a write completion reports, none for every other command (R18, R133, R152, R156, R5). -/
def completedWrite : Instr → Option AccessKind
  | .takenWriteComplete => some .takenWrite
  | .resultWriteComplete => some .resultWrite
  | .closedWriteComplete => some .closedWrite
  | .spotWriteComplete => some .spotWrite
  | .snapshotRecordWriteComplete => some .snapshotWrite
  | .journalWriteComplete => some .journalWrite
  | .mirrorWriteComplete => some .mirrorWrite
  | _ => none

/-- The kind of read that a read completion reports, none for every other command (R2, R24, R25). -/
def completedRead : Instr → Option AccessKind
  | .headerReadComplete _ => some .headerRead
  | .linkReadComplete _ => some .linkRead
  | .blockReadComplete _ => some .blockRead
  | _ => none

/-- An access that a reset abandons with memory left as it was: one of at most one word, such as a block's status, and a
page header's write (R37, R155, R147). -/
def Access.LeavesMemory (a : Access) : Prop := a.data.length ≤ 1 ∨ (a.kind = .journalWrite ∧ a.addr.toNat % 4096 = 0)

/-- An access that fails with memory left as it was: one of at most one word, such as a block's status, and the write of a
page's CLOSED header, whose state field is 2 (R36, R155, R135, R146). -/
def Access.FaultLeavesMemory (a : Access) : Prop :=
  a.data.length ≤ 1 ∨ (a.kind = .journalWrite ∧ a.addr.toNat % 4096 = 0 ∧ ∃ w ws, a.data = w :: ws ∧ w.extractLsb' 0 8 = 2)

/-- The commands that may end or abandon the access on the interconnect, and so the only ones that touch shared
memory: responses, expired limits, hardware resets and CONTROL writes (a write with RESET set resets). -/
def endsAccess (c : Instr) : Bool :=
  (completedWrite c).isSome || (completedRead c).isSome || (controlData c).isSome ||
    match c with
    | .errorResponse _ => true
    | .responseLimitExpiry _ => true
    | .hardwareReset _ => true
    | _ => false

/-! ### STATUS and CONTROL as read (R179, R177; 13, Registers) -/

/-- What a read of CONTROL gives: RUN in bit 0 and zeros elsewhere. -/
def State.ControlReads (s : State) : Prop := s.readRegister 0x04 = some (if s.ctl.run then 1#32 else 0#32)

/-- What a read of STATUS gives: each field from the unit that owns it, by the codes of 13, and zeros elsewhere. -/
def State.StatusReads (s : State) : Prop :=
  ∃ w : Word, s.readRegister 0x08 = some w ∧
    w.extractLsb' 0 3 = (match s.ctl.op with
      | .off => 0
      | .loading => 1
      | .running => 2
      | .stopping => 3
      | .stopped => 4
      | .faulted => 5) ∧
    w.extractLsb' 4 3 = (match s.wk.state with
      | .idle => 0
      | .resting => 1
      | .fetchLink => 2
      | .fetchBlock _ => 2
      | .fetchTaken _ => 2
      | .workingUnit _ => 3
      | .workingFlush _ => 3
      | .workingSpot _ => 3
      | .awaiting _ _ => 4
      | .closingResult _ _ => 5
      | .closingStatus _ _ => 5) ∧
    w.getLsbD 8 = decide (s.eng.rate = .drowsy) ∧ w.getLsbD 9 = s.jrn.starved ∧ w.getLsbD 10 = s.ctl.refusedWrite ∧
    w.getLsbD 11 = s.wk.badLink ∧
    w.extractLsb' 12 2 = (match s.ctl.faultKind with
      | .none => 0
      | .memError => 1
      | .memTimeout => 2) ∧
    w.getLsbD 3 = false ∧ w.getLsbD 7 = false ∧ w.extractLsb' 14 18 = 0

/-! ### The walker's reading of a block (R27, R28, 13 Parameter areas) -/

/-- The content checks that the kinds' chapters list, on the block's own bytes: what closes a block of its kind
BAD_PARAM (R163, R165, R139, R141, R49 with R39, R54, R98, R122, R156 with R14, R149). -/
def ContentFails (b : Vector Word 16) : Prop :=
  let u8 := fun k => (blockByte b k).toNat
  let u16 := fun k => (blockHalf b k).toNat
  let u32 := fun k => (blockField b k).toNat
  match u8 5 with
  | 1 => 7 < u8 16 ∨ 1 < u8 17 ∨ 2 < u8 18 ∨ 2 < u8 19 ∨ 1 < u8 20 ∨ 7 < u8 21
  | 2 => ∃ n : Fin 8, (blockByte b 16).getLsbD n.val = true ∧ 1 < u8 (24 + n.val)
  | 3 => u8 16 = 0 ∨ 8 < u8 16 ∨ (∃ i, i < u8 16 ∧ (u32 (20 + 4 * i) = 0 ∨ u32 (20 + 4 * i) % 4096 ≠ 0)) ∨
      ∃ i j, i < j ∧ j < u8 16 ∧ u32 (20 + 4 * i) = u32 (20 + 4 * j)
  | 4 => u32 52 = 0 ∨ 8 < u32 52
  | 6 => 31 < u8 16 ∨ u8 17 = 0 ∨ 16 < u8 17 ∨ 2 < u8 18 ∨ 2 < u8 19 ∨ u16 20 < 64 ∨ 60000 < u16 20 ∨ u16 22 = 0 ∨
      4095 < u16 22 ∨ 15 < u8 24 ∨ 31 < u8 25 ∨ 1023 < u16 26 ∨ u16 28 = 0 ∨ 4095 < u16 28 ∨ u16 28 ≤ u16 30 ∨ 15 < u8 32 ∨
      15 < u8 33 ∨ u8 34 = 0 ∨ 15 < u8 34 ∨ u8 35 = 0 ∨ u8 34 < u8 35 ∨ 1 < u8 38 ∨ 1 < u8 39 ∨ 1 < u8 40
  | 7 => 31 < u8 16
  | 8 => 3 < u8 16 ∨ (31 < u8 17 ∧ u8 17 ≠ 255) ∨ (u8 17 ≤ 31 ∧ (blockField b 20).getLsbD (u8 17) = false) ∨ 512 < u16 24 ∨
      1 < u8 18
  | 9 => u32 16 = 0 ∨ 1000 < u32 16 ∨ u32 20 < u32 16 ∨ 10000 < u32 20 ∨ 65535 < u32 24 ∨ 60000 < u32 28
  | 12 => u32 16 % 32 ≠ 0 ∨ 2 ^ 32 < u32 16 + 32 * ((List.finRange 32).filter fun p => inSet (blockField b 20) p).length
  | 14 => 31 < u8 60 ∨ u8 61 = 0 ∨ 64 < u8 61
  | _ => False

/-- A request carries the fields of the block it was read from, at their offsets (13, Codes and Parameter areas). -/
def Request.ReadFrom (r : Request) (b : Vector Word 16) : Prop :=
  let u8 := fun k => (blockByte b k).toNat
  let u16 := fun k => (blockHalf b k).toNat
  let u32 := fun k => (blockField b k).toNat
  match r with
  | .configOutput n l => u8 5 = 1 ∧ n.val = u8 16 ∧ l =
      { owner := if u8 17 = 0 then .direct else .linked
        drive := if u8 18 = 0 then .off else if u8 18 = 1 then .pushPullHigh else .openDrainLow
        faultLevel := if u8 19 = 0 then .hold else if u8 19 = 1 then .inactive else .active
        level := decide (u8 20 = 1)
        linkStates := ⟨(blockByte b 21).getLsbD 0, (blockByte b 21).getLsbD 1, (blockByte b 21).getLsbD 2⟩
        linkSet := blockField b 24 }
  | .setOutputs lines levels => u8 5 = 2 ∧ lines = blockByte b 16 ∧ ∀ n : Fin 8, levels[n] = decide (u8 (24 + n.val) = 1)
  | .givePages pages => u8 5 = 3 ∧ pages = (List.range (u8 16)).map fun i => blockField b (20 + 4 * i)
  | .reclaimPages limit => u8 5 = 4 ∧ limit = u32 52
  | .flushJournal => u8 5 = 5
  | .configPoint p cfg => u8 5 = 6 ∧ p.val = u8 16 ∧ cfg =
      { integration := u8 17
        calMode := if u8 18 = 0 then .none else if u8 18 = 1 then .offset else .full
        direction := if u8 19 = 0 then .rising else if u8 19 = 1 then .falling else .either
        calTarget := u16 20, calBand := u16 22
        gains := ⟨BitVec.ofNat 4 (u8 24), BitVec.ofNat 5 (u8 25), BitVec.ofNat 10 (u16 26)⟩
        threshold := u16 28, hysteresis := u16 30, enterDebounce := u8 32, exitDebounce := u8 33
        slowBeta := u8 34, fastBeta := u8 35, stuckLimit := u16 36
        autoRecalibrate := decide (u8 38 = 1), urgent := decide (u8 39 = 1), verbose := decide (u8 40 = 1) }
  | .releasePoint p => u8 5 = 7 ∧ p.val = u8 16
  | .configGroup i g => u8 5 = 8 ∧ i.val = u8 16 ∧ (g.reference = none ↔ u8 17 = 255) ∧
      (∀ p, g.reference = some p → p.val = u8 17) ∧ g.halt = decide (u8 18 = 1) ∧ g.members = blockField b 20 ∧ g.weight = u16 24
  | .setTiming t => u8 5 = 9 ∧ t = { brisk := u32 16, drowsy := u32 20, drowsyAfter := u32 24, linger := u32 28 }
  | .recalibrate set => u8 5 = 10 ∧ set = blockField b 16
  | .reseed set => u8 5 = 11 ∧ set = blockField b 16
  | .snapshot buffer set => u8 5 = 12 ∧ buffer = blockField b 16 ∧ set = blockField b 20
  | .mark tag => u8 5 = 13 ∧ tag = blockHalf b 8
  | .spot p m => u8 5 = 14 ∧ p.val = u8 60 ∧ m = u8 61

/-! ### The order of accesses -/

/-- `t` is `u` but for the order in which the port received the accesses of one event (R9, log entry 9). -/
def State.SameButOrder (u t : State) : Prop := t.port.Perm u.port ∧ t = (u.setPort t.port).setTick t.tick

/-! ### The journal unit's rules, spelled out -/

/-- The layouts of what the journal unit writes (13, Codes, Page header and Journal records): a page header by its page
and closing cause, and a record's words by its fields. -/
def JournalLayouts : Prop :=
  (∀ (p : OpenPage) (closing : Option CloseCause), ∃ w0 w1 : Word,
    pageHeader p closing = [w0, w1, p.sequence, p.firstRecord, p.firstFrame, 0, 0, 0] ∧
    w0.extractLsb' 0 8 = (if closing = none then 1 else 2) ∧
    w0.extractLsb' 8 8 = (match closing with
      | none => 0
      | some .full => 1
      | some .linger => 2
      | some .flush => 3) ∧
    w0.extractLsb' 16 16 = BitVec.ofNat 16 p.count ∧ w1.extractLsb' 0 16 = BitVec.ofNat 16 p.used ∧
    w1.extractLsb' 16 16 = 0) ∧
  (∀ (r : Record) (sequence frame : Word), ∃ w0 w5 w6 : Word,
    r.words sequence frame = [w0, r.delta, sequence, frame] ++ (if r.long then [BitVec.ofNat 32 r.baseline, w5, w6, 0] else []) ∧
    w0.extractLsb' 0 4 = r.kind.code ∧ w0.extractLsb' 4 3 = 0 ∧ w0.getLsbD 7 = r.long ∧ w0.extractLsb' 16 16 = r.detail ∧
    (r.who = none → w0.extractLsb' 8 8 = 0xFF) ∧
    (∀ p st, r.who = some (p, st) → w0.extractLsb' 8 5 = BitVec.ofNat 5 p.val ∧ w0.extractLsb' 13 3 = st.code) ∧
    w5.extractLsb' 0 16 = r.count ∧ w5.extractLsb' 16 8 = BitVec.ofNat 8 r.tuning.coarse.toNat ∧
    w5.extractLsb' 24 8 = BitVec.ofNat 8 r.tuning.fine.toNat ∧ w6.extractLsb' 0 16 = BitVec.ofNat 16 r.tuning.offset.toNat ∧
    w6.extractLsb' 16 16 = BitVec.ofNat 16 r.stuck) ∧
  [RecordKind.engage, .disengage, .reseed, .calStart, .calDone, .calFail, .saturated, .gap, .mark].map (·.code) =
    [1, 2, 3, 4, 5, 6, 7, 8, 9] ∧
  [PointState.disabled, .calibrating, .idle, .entering, .engaged, .leaving, .fault].map (·.code) = [0, 1, 2, 3, 4, 5, 6]

/-- A snapshot record's words by the point's items (R157; 13, Codes and Snapshot record), and which group a point belongs
to (R97). -/
def SnapshotLayout : Prop :=
  (∀ (p : PointId) (pt : Point) (group : Option (Fin 4)), ∃ w0 w1 w5 w6 w7 : Word,
    snapshotWords p pt group =
      [w0, w1, BitVec.ofNat 32 pt.baseline, BitVec.ofInt 32 pt.lastRawDelta, BitVec.ofInt 32 pt.lastDelta, w5, w6, w7] ∧
    w0.extractLsb' 0 8 = BitVec.ofNat 8 p.val ∧
    w0.extractLsb' 8 8 = (match pt.state with
      | .disabled => 0
      | .calibrating => 1
      | .idle => 2
      | .entering => 3
      | .engaged => 4
      | .leaving => 5
      | .fault => 6) ∧
    w0.extractLsb' 16 8 = (match pt.faultCause with
      | .none => 0
      | .saturated => 1
      | .calFail => 2) ∧
    w0.extractLsb' 24 8 = (match group with
      | none => 0xFF
      | some i => BitVec.ofNat 8 i.val) ∧
    w1.extractLsb' 0 16 = pt.lastCount ∧ w1.extractLsb' 16 16 = BitVec.ofNat 16 pt.stuck ∧
    w5.extractLsb' 0 8 = BitVec.ofNat 8 pt.tuning.coarse.toNat ∧ w5.extractLsb' 8 8 = BitVec.ofNat 8 pt.tuning.fine.toNat ∧
    w5.extractLsb' 16 16 = BitVec.ofNat 16 pt.tuning.offset.toNat ∧
    w6.extractLsb' 0 8 = BitVec.ofNat 8 pt.cfg.gains.coarse.toNat ∧
    w6.extractLsb' 8 8 = BitVec.ofNat 8 pt.cfg.gains.fine.toNat ∧
    w6.extractLsb' 16 16 = BitVec.ofNat 16 pt.cfg.gains.offset.toNat ∧
    w7.extractLsb' 0 8 = BitVec.ofNat 8 pt.debounce ∧
    w7.extractLsb' 8 8 = (match pt.calPhase with
      | .none => 0
      | .coarse => 1
      | .fine => 2
      | .offset => 3
      | .verify => 4) ∧
    w7.extractLsb' 16 8 = BitVec.ofNat 8 pt.calStep ∧ w7.getLsbD 24 = pt.armedReseed ∧ w7.getLsbD 25 = pt.armedRecal ∧
    w7.getLsbD 26 = pt.seedPending ∧ w7.getLsbD 27 = pt.spotBusy ∧ w7.extractLsb' 28 4 = 0) ∧
  ∀ (groups : Vector Group 4) (p : PointId),
    (groupOf groups p = none ↔ ∀ i : Fin 4, inSet groups[i].members p = false) ∧
    ∀ i : Fin 4, groupOf groups p = some i → inSet groups[i].members p = true

/-- The eight words of the device half by a mirror image's fields (R4; 13, Exchange area). -/
def ImageLayout : Prop :=
  ∀ i : Image, ∃ w : Word, i.words = [i.frameNumber, i.lastRecord, i.openPage, i.anchor, i.gap, w, 0, 0] ∧
    w.extractLsb' 0 8 = BitVec.ofNat 8 i.pagesQueued ∧
    w.extractLsb' 8 8 = (match i.rate with
      | .brisk => 0
      | .drowsy => 1) ∧
    w.extractLsb' 16 8 = (if i.starved then 1 else 0) ∧ w.extractLsb' 24 8 = 0

/-- The writes of a record's words placed at an address: two accesses where a long record starts 48 bytes into a 64-byte
block, else one (R8, R130). -/
def recordWrites (a : Word) (words : List Word) : List JournalWrite :=
  if words.length = 8 ∧ a.toNat % 64 = 48 then
    [{ addr := a, data := words.take 4, closes := none }, { addr := a + 16, data := words.drop 4, closes := none }]
  else [{ addr := a, data := words, closes := none }]

/-- The journal unit after it has appended a record of these words to `page`, the page in its slot: the record at the
bytes used, count, bytes used and record sequence, and the linger timer of a page that held none (R128, R130, R136). -/
def Journal.appended (j : Journal) (page : OpenPage) (words : List Word) : Journal :=
  { j with
    page := some { page with count := page.count + 1, used := page.used + 4 * words.length, grew := true }
    recordSeq := j.recordSeq + 1
    lingerTimer := if page.count = 0 ∧ j.linger ≠ 0 then some j.linger else j.lingerTimer
    writes := j.writes ++ recordWrites (page.addr + BitVec.ofNat 32 (32 + page.used)) words }

/-- The journal unit after it has closed `page`, the page in its slot (R135). -/
def Journal.closed (j : Journal) (page : OpenPage) (cause : CloseCause) : Journal :=
  { j with
    page := none
    lingerTimer := none
    closeMark := .none
    writes := j.writes ++ [{ addr := page.addr, data := pageHeader page (some cause),
                             closes := some { sequence := page.sequence, cause := cause } }] }

/-- The page that the front page of the queue becomes in the slot, for an admitted frame's number (R132 step 3, R128). -/
def Journal.freshPage (j : Journal) (a frame : Word) : OpenPage :=
  { addr := a, sequence := j.pageSeq + 1, count := 0, used := 0, firstRecord := j.recordSeq + 1, firstFrame := frame, grew := false }

/-- The journal unit after the front page `a` of its queue has entered the empty slot: page sequence, OPEN header write,
frame open and not starved (R132 step 3). -/
def Journal.opened (j : Journal) (a : Word) (rest : List Word) (frame : Word) : Journal :=
  { j with
    queue := rest
    page := some (j.freshPage a frame)
    pageSeq := j.pageSeq + 1
    frameOpen := true
    starved := false
    writes := j.writes ++ [{ addr := a, data := pageHeader (j.freshPage a frame) none, closes := none }] }

/-- `j'` is `j` after the answer "admitted" for a reservation of `r` bytes (R132): a page with room stays, a page without
room is closed FULL, and the front page of the queue enters an empty slot. -/
def Journal.Admits (r : Nat) (frame : Word) (j j' : Journal) : Prop :=
  (∀ page, j.page = some page → page.used + r ≤ 4064 → j' = { j with frameOpen := true, starved := false }) ∧
    ∀ (a : Word) (rest : List Word), j.queue = a :: rest →
      (j.page = none → j' = j.opened a rest frame) ∧
        ∀ page, j.page = some page → 4064 < page.used + r → j' = (j.closed page .full).opened a rest frame

/-- `j'` is `j` after the journal unit has been told that the frame is over: R134's table. -/
def Journal.FrameOver (j j' : Journal) : Prop :=
  (j.closeMark = .none →
    (∀ page, j.page = some page → page.grew = true → j' = { j with
      frameOpen := false
      page := some { page with grew := false }
      writes := j.writes ++ [{ addr := page.addr, data := pageHeader page none, closes := none }] }) ∧
    ((∀ page, j.page = some page → page.grew = false) → j' = { j with frameOpen := false })) ∧
  (j.closeMark = .linger →
    (∀ page, j.page = some page → j' = { j with frameOpen := false }.closed page .linger) ∧
    (j.page = none → j' = { j with frameOpen := false, closeMark := .none })) ∧
  (j.closeMark = .flush →
    (∀ page, j.page = some page → page.count ≠ 0 → j' = { j with frameOpen := false }.closed page .flush) ∧
    ((∀ page, j.page = some page → page.count = 0) → j' = { j with frameOpen := false, closeMark := .none }))

/-- The frame's end finds no record for the FLUSH_JOURNAL that waits for it (R134, its last row). -/
def Journal.flushesNothing (j : Journal) : Bool :=
  j.closeMark = .flush && (match j.page with
    | some page => page.count = 0
    | none => true)

/-! ### Slots, spelled out -/

/-- Which slots request a conversion (R42), which slot takes an armed recalibrate and what taking it does to the point's
record (R67, its table; R57 and R58 give the start position), and how a calibrating point's record is prepared for its
step, the trial bit set, at the grant of its conversion (R59, its table). -/
def SlotRules : Prop :=
  ∀ pt : Point,
    (pt.slotConverts = true ↔ pt.state = .calibrating ∨ (pt.state = .fault ∧ pt.armedRecal = true) ∨ pt.state = .idle ∨
      pt.state = .entering ∨ pt.state = .engaged ∨ pt.state = .leaving) ∧
    (pt.takesRecal = true ↔ pt.armedRecal = true ∧ (pt.state = .fault ∨ (pt.armedReseed = false ∧
      (pt.state = .idle ∨ pt.state = .entering ∨ pt.state = .engaged ∨ pt.state = .leaving)))) ∧
    pt.takeRecal = { pt with
      armedRecal := false, armedReseed := false, seedPending := false, faultCause := .none, debounce := 0, stuck := 0,
      lastRawDelta := 0, lastDelta := 0, state := .calibrating
      calPhase := if pt.cfg.calMode = .full then .coarse else .offset
      calStep := if pt.cfg.calMode = .full then 3 else 9 } ∧
    (pt.state ≠ .calibrating → pt.atGrant = pt) ∧
    (pt.state = .calibrating → ∃ t : Tuning, pt.atGrant = { pt with tuning := t } ∧
      (pt.calPhase = .coarse → pt.calStep = 3 → t = ⟨8, 16, 0⟩) ∧
      (pt.calPhase = .coarse → pt.calStep < 3 → t.fine = pt.tuning.fine ∧ t.offset = pt.tuning.offset ∧
        ∀ i : Nat, i < 4 → t.coarse.getLsbD i = (pt.tuning.coarse.getLsbD i || decide (i = pt.calStep))) ∧
      (pt.calPhase = .fine → pt.calStep = 4 → t = { pt.tuning with fine := 16 }) ∧
      (pt.calPhase = .fine → pt.calStep < 4 → t.coarse = pt.tuning.coarse ∧ t.offset = pt.tuning.offset ∧
        ∀ i : Nat, i < 5 → t.fine.getLsbD i = (pt.tuning.fine.getLsbD i || decide (i = pt.calStep))) ∧
      (pt.calPhase = .offset → pt.calStep = 9 → t = { pt.tuning with offset := 512 }) ∧
      (pt.calPhase = .offset → pt.calStep < 9 → t.coarse = pt.tuning.coarse ∧ t.fine = pt.tuning.fine ∧
        ∀ i : Nat, i < 10 → t.offset.getLsbD i = (pt.tuning.offset.getLsbD i || decide (i = pt.calStep))) ∧
      (pt.calPhase = .verify → t = pt.tuning))

/-- The point is ENGAGED or LEAVING before step 6 and after it, for a measurement of this delta (R81, R82). -/
def Point.StaysEngaged (pt : Point) (delta : Int) : Prop :=
  (pt.state = .engaged ∧ ((pt.cfg.threshold : Int) - pt.cfg.hysteresis ≤ delta ∨ 2 ≤ pt.cfg.exitDebounce)) ∨
    (pt.state = .leaving ∧ ((pt.cfg.threshold : Int) - pt.cfg.hysteresis ≤ delta ∨ pt.debounce + 1 ≠ pt.cfg.exitDebounce))

/-- No slot of the frame requests a conversion (R42). -/
def State.NoSlot (s : State) : Prop := ∀ p : PointId, (s.point p).slotConverts = false

/-- `q` is the first point whose slot requests a conversion (R42). -/
def State.FirstSlot (s : State) (q : PointId) : Prop :=
  (s.point q).slotConverts = true ∧ ∀ r : PointId, r < q → (s.point r).slotConverts = false

/-- `t` is `s` after the work of point `p`'s slot at its conversion's completion, with what the measurement gives: the
point's record, the report of a changed state, the record appended and the cause raised (R42, R43), and the converter
released, to a waiting spot if there is one (R47, R150). No port is named: each agent's access follows its unit (R9). -/
def State.SlotDone (s : State) (p : PointId) (m : Measured) (t : State) : Prop :=
  t.point p = m.pt ∧ (∀ r : PointId, r ≠ p → t.point r = s.point r) ∧ t.eng = { s.eng with points := t.eng.points } ∧
  t.out = (if m.pt.state = (s.point p).state then s.out else s.out.report p m.pt.state) ∧
  t.jrn = (match m.record, s.jrn.page with
    | some r, some page => s.jrn.appended page (r.words (s.jrn.recordSeq + 1) s.eng.frameInProgress)
    | _, _ => s.jrn) ∧
  t.atn = (match m.trip with
    | none => s.atn
    | some .engaged => s.atn.raise (.engaged p)
    | some .pointFault => s.atn.raise (.pointFault p)) ∧
  t.wk = s.wk ∧ t.mir = s.mir ∧ t.mem = s.mem ∧ t.ctl = s.ctl ∧
  (s.arb.spotWaits = false → t.spt = s.spt ∧ t.arb = { grant := .free, scanWaits := false, spotWaits := false }) ∧
  (s.arb.spotWaits = true → ∀ k, s.spt.state = .queued k →
    t.spt = { s.spt with state := .converting k ⟨0, 0, 0, 0, 0⟩ none } ∧
    t.arb = { grant := .spot ⟨(t.point k.point).cfg.integration, (t.point k.point).tuning⟩, scanWaits := false, spotWaits := false })

/-- `w'` is `w` with the boundary request that the walker has passed, if any, at the engine, where it waits for the frame's
end (R31, R121). -/
def Walker.Reaches (w w' : Walker) : Prop :=
  (∀ h, w.state = .awaiting h .passed → w' = { w with state := .awaiting h .waits }) ∧
  ((∀ h, w.state ≠ .awaiting h .passed) → w' = w)

/-- `t` is `s` after the slot of point `q` is begun: an armed recalibrate is taken and reported (R67, R43), and the
conversion is requested, granted by a FREE converter that no spot waits for and else waiting (R42, R47, R45, R59). A boundary
request that the walker has passed has reached the engine (R31, log entry 11). -/
def State.SlotBegun (s : State) (q : PointId) (t : State) : Prop :=
  (∀ r : PointId, r ≠ q → t.point r = s.point r) ∧ t.eng = { s.eng with points := t.eng.points, slot := some q } ∧
  t.out = (if (s.point q).takesRecal then s.out.report q .calibrating else s.out) ∧
  t.jrn = s.jrn ∧ t.spt = s.spt ∧ s.wk.Reaches t.wk ∧ t.mir = s.mir ∧ t.atn = s.atn ∧ t.mem = s.mem ∧ t.ctl = s.ctl ∧
  ∀ x : Point, x = (if (s.point q).takesRecal then (s.point q).takeRecal else s.point q) →
    (s.arb.grant = .free → s.arb.spotWaits = false → t.point q = x.atGrant ∧
      t.arb = { grant := .scan ⟨x.cfg.integration, x.atGrant.tuning⟩, scanWaits := false, spotWaits := false }) ∧
    (s.arb.grant ≠ .free → t.point q = x ∧ t.arb = { s.arb with scanWaits := true })

/-! ### Frames, spelled out -/

/-- The image of the units as they stand (R4). -/
def State.imageNow (s : State) : Image :=
  { frameNumber := s.eng.frameNumber, lastRecord := s.jrn.recordSeq
    openPage := (match s.jrn.page with
      | some page => page.addr
      | none => 0)
    anchor := s.wk.anchor.addr s.ctl.areaBase, gap := s.eng.gap, pagesQueued := s.jrn.queue.length
    rate := s.eng.rate, starved := s.jrn.starved }

/-- `m'` is `m` after a capture of the image `i` (R5): with no write in progress it is written at once; it waits behind the
write in progress, in the place of an image that waited; and it replaces an image whose access the port has received and not
placed on the interconnect, behind another agent's. With the port idle when the event began it is open whether the image has
been placed (log entry 27). -/
def Mirror.Captured (i : Image) (m m' : Mirror) : Prop :=
  (m.writing = none → m' = { m with writing := some { image := i, atStop := false }, waiting := none }) ∧
  ∀ w, m.writing = some w →
    (m.during = .between ∨ m.during = .image → m' = { m with waiting := some i }) ∧
    (m.during = .other → m' = { m with writing := some { w with image := i } }) ∧
    (m.during = .idle →
      m' = { m with waiting := some i, during := .image } ∨ m' = { m with writing := some { w with image := i } })

/-- `s` as an event of the scan engine finds it: with the mirror writer's image on the interconnect, or another agent's
access, or no access (R9; the item `during` is the model's own, log entry 27). -/
def State.atEvent (s : State) : State :=
  s.setMir { s.mir with during := match s.port with
    | [] => .idle
    | a :: _ => if a.kind = .mirrorWrite then .image else .other }

/-- `t` is `x`, what an event of the scan engine that found `s` makes, but for the order in which the port received the
accesses of the event (R9, log entry 9), the event over. -/
def State.EventEnds (s x t : State) : Prop :=
  t.port.Perm x.port ∧ t = ((x.setPort t.port).setTick t.tick).setMir { x.mir with during := s.mir.during }

/-- The journal unit has room for the frame's reservation, in the open page or by a queued one (R132). -/
def State.HasRoom (s : State) : Prop :=
  s.jrn.queue ≠ [] ∨ ∃ page, s.jrn.page = some page ∧ page.used + s.eng.reservation ≤ 4064

/-- The admission check finds room (R115, R118, R131, R132, R144): `t` is `s` with the frame begun. The GAP record comes
first, the MARK record after it, and then the first slot that requests a conversion is begun, if there is one. A start still
pending is counted in the GAP record (R117, log entry 28), and a boundary request that the walker has passed waits for the
frame's end (R31). -/
def State.FrameBegun (s t : State) : Prop :=
  ∃ (j0 j1 : Journal) (gap : Word), s.jrn.Admits s.eng.reservation s.eng.frameNumber j0 ∧
    gap = s.eng.gap + (if s.eng.startPending then 1 else 0) ∧
    (gap = 0 → j1 = j0) ∧
    (gap ≠ 0 → ∀ page, j0.page = some page →
      j1 = j0.appended page [ofHalves 0xFF08 0, gap, j0.recordSeq + 1, s.eng.frameNumber]) ∧
    (s.eng.mark = none → t.jrn = j1) ∧
    (∀ m, s.eng.mark = some m → ∀ page, j1.page = some page →
      t.jrn = j1.appended page [ofHalves 0xFF09 m.tag, m.addr, j1.recordSeq + 1, s.eng.frameNumber]) ∧
    s.wk.Reaches t.wk ∧ ∀ b : State, b = ((s.setJrn t.jrn).setWk t.wk).setEng
        { s.eng with
          frameState := .scanning, frameInProgress := s.eng.frameNumber, gap := 0, startPending := false, mark := none
          slot := none } →
      (s.NoSlot → t = (b.setPort t.port)) ∧ ∀ q : PointId, s.FirstSlot q → b.SlotBegun q t

/-- The admission check finds no room (R116, R132, R138, R5, R22): `t` is `s` with the frame skipped. -/
def State.FrameSkipped (s t : State) : Prop :=
  t.eng = { s.eng with gap := s.eng.gap + 1, frameState := .waiting } ∧
  (s.jrn.page = none → t.jrn = { s.jrn with starved := true }) ∧
  (∀ page, s.jrn.page = some page → t.jrn = { s.jrn.closed page .full with starved := true }) ∧
  t.atn = (if s.jrn.starved then s.atn else s.atn.raise .starved) ∧
  t.wk = (if s.wk.state = .resting then { s.wk with state := .fetchLink } else s.wk) ∧
  s.mir.Captured { s.imageNow with openPage := 0, gap := s.eng.gap + 1, starved := true } t.mir ∧
  t.out = s.out ∧ t.spt = s.spt ∧ t.arb = s.arb ∧ t.mem = s.mem ∧ t.ctl = s.ctl

/-- The quiet judgment at a frame's end (R119 step 1, R120): `t` is `s` after it. -/
def State.Judged (s t : State) : Prop :=
  t = s.setEng { s.eng with quiet := t.eng.quiet, rate := t.eng.rate, frameTimer := t.eng.frameTimer } ∧
  ((∀ p : PointId, (s.point p).state = .disabled ∨ (s.point p).state = .idle) →
    t.eng.quiet = (if s.eng.quiet < 65535 then s.eng.quiet + 1 else s.eng.quiet) ∧
    t.eng.rate = (if s.eng.timing.drowsyAfter ≠ 0 ∧ s.eng.timing.drowsyAfter ≤ t.eng.quiet then .drowsy else s.eng.rate) ∧
    t.eng.frameTimer = s.eng.frameTimer) ∧
  ((∃ p : PointId, (s.point p).state ≠ .disabled ∧ (s.point p).state ≠ .idle) →
    t.eng.quiet = 0 ∧ t.eng.rate = .brisk ∧
    t.eng.frameTimer = (if s.eng.rate = .drowsy then some s.eng.timing.brisk else s.eng.frameTimer))

/-- The journal unit is told that the frame is over (R119 step 2, R123, R134): `t` is `s` after it. No port is named. -/
def State.ToldOver (s t : State) : Prop :=
  s.jrn.FrameOver t.jrn ∧
  t = ((s.setJrn t.jrn).setPort t.port).setWk (match s.wk.state with
    | .workingFlush h =>
      if s.jrn.flushesNothing then { s.wk with state := .closingResult h { code := .done, value := 0, params := [] } } else s.wk
    | _ => s.wk)

/-- `t` is `s` after `n` expiries in SCANNING, each by R113: the timer restarts by the rate (R109), the frame number
increases (R110), the first sets the start pending mark if it is clear, and the others are merged. A stopped timer has none. -/
def State.Expired (n : Nat) (s t : State) : Prop :=
  (n = 0 ∨ s.eng.frameTimer = none → t = s) ∧
  (n ≠ 0 → ∀ v : Nat, s.eng.frameTimer = some v → t = s.setEng { s.eng with
    frameTimer := some (match s.eng.rate with
      | .brisk => s.eng.timing.brisk
      | .drowsy => s.eng.timing.drowsy)
    frameNumber := s.eng.frameNumber + BitVec.ofNat 32 n
    startPending := true
    merged := s.eng.merged + BitVec.ofNat 32 (if s.eng.startPending then n else n - 1) })

/-- `t` is `s` after `n` expiries in the end of a frame behind its step 3: those merged are added to the gap count in the same
end (R113, R117; log entry 28). -/
def State.ExpiredCounted (n : Nat) (s t : State) : Prop :=
  ∃ u : State, s.Expired n u ∧ t = u.setEng { u.eng with gap := u.eng.gap + u.eng.merged, merged := 0 }

/-- Steps 1 to 6 of the end of an admitted frame but for a boundary request that waits (R119, R120, R134, R5, R22), with the
expiries that arrive after each step (R113): `t` is `s` after them. -/
def State.FrameEnded (x : EndExpiries) (s t : State) : Prop :=
  ∃ a a' b b' c d d' f' : State,
    s.Judged a ∧ a.Expired x.judged a' ∧
    a'.ToldOver b ∧ b.Expired x.told b' ∧
    (b'.setEng { b'.eng with gap := b'.eng.gap + b'.eng.merged, merged := 0 }).ExpiredCounted x.counted c ∧
    c.mir.Captured c.imageNow d.mir ∧ d = ((c.setMir d.mir).setPort d.port).setTick d.tick ∧ d.ExpiredCounted x.captured d' ∧
    (∃ f : State, f = (d'.setWk (if d'.wk.state = .resting then { d'.wk with state := .fetchLink } else d'.wk)).setPort f.port ∧
      f.ExpiredCounted x.announced f') ∧
    t = f'.setEng { f'.eng with frameState := .waiting }

/-- The end of a cut frame but for a boundary request that waits (R123, R134): `t` is `s` after it. -/
def State.CutEnded (s t : State) : Prop :=
  ∃ u : State, s.ToldOver u ∧ t = u.setEng { s.eng with
    gap := s.eng.gap + s.eng.merged + (if s.eng.startPending then 1 else 0), merged := 0, startPending := false, slot := none
    frameState := .parked }

/-- The command of a boundary request, none for the other kinds (R27, R31). -/
def Request.boundaryCommand : Request → Option Instr
  | .configPoint _ _ => some .configPoint
  | .releasePoint _ => some .releasePoint
  | .configGroup _ _ => some .configGroup
  | .setTiming _ => some .setTiming
  | .recalibrate _ => some .recalibrate
  | .reseed _ => some .reseed
  | .snapshot _ _ => some .snapshot
  | .mark _ => some .mark
  | _ => none

/-- `t` is `s`, between frames, after the scan engine has applied the boundary request the walker holds, if any (R119
step 6, R121, R123): what the request's own command makes of `s`, but for the order of its accesses. -/
def State.AppliesWaiting (s t : State) : Prop :=
  ((∀ h r, ¬ s.Awaits h r) → t = s) ∧
    ∀ h r c, s.Awaits h r → r.boundaryCommand = some c → ∃ u, exec c s = .next u ∧ u.SameButOrder t

/-- `t` is `s`, a frame just ended, after the scan engine has applied the boundary request that has waited for the frame's
end, if there is one (R31, R119 step 6). -/
def State.AppliesReached (s t : State) : Prop :=
  ((∃ h, s.wk.state = .awaiting h .waits) → s.AppliesWaiting t) ∧ ((∀ h, s.wk.state ≠ .awaiting h .waits) → t = s)

/-- `t` is `s` after the boundary request that the walker has passed, if any, has reached the engine (R31, R121): applied
between frames, waiting inside a frame. -/
def State.ReachesEngine (s t : State) : Prop :=
  (s.betweenFrames = true → s.AppliesWaiting t) ∧
  (s.betweenFrames = false → t = s.setWk t.wk ∧ s.wk.Reaches t.wk)

/-- The end of an admitted frame whose last slot is done, with no expiry inside it (R119): steps 1 to 6, and, with the start
pending mark set, the admission check of step 7, whose frame ends at once when no slot requests a conversion. -/
def State.FrameFinishedPlain (s t : State) : Prop :=
  ∃ u v : State, s.FrameEnded .zero u ∧ u.AppliesWaiting v ∧ (v.eng.startPending = false → t = v) ∧
    (v.eng.startPending = true → ∀ w : State, w = v.setEng { v.eng with startPending := false } →
      (¬ w.HasRoom → w.FrameSkipped t) ∧
      (w.HasRoom → ∃ b, w.FrameBegun b ∧ (¬ w.NoSlot → t = b) ∧
        (w.NoSlot → ∃ x, b.FrameEnded .zero x ∧ x.AppliesWaiting t)))

/-- `t` is `s` after an expiry that finds the engine in WAITING or SCANNING (R109, R110, R112, R113): the admission check or
the start pending mark and the merged count. `xs` are the entries for the ends of frames still to come in the event, `ys`
those left; `finished` says how a frame that the check admits, with no slot that requests a conversion, ends. A stopped
timer has no expiry. -/
def State.ExpiredOnce (finished : List EndExpiries → State → List EndExpiries → State → Prop) (xs : List EndExpiries) (s : State)
    (ys : List EndExpiries) (t : State) : Prop :=
  (s.eng.frameTimer = none → ys = xs ∧ t = s) ∧
  (s.eng.frameState = .scanning → ys = xs ∧ s.Expired 1 t) ∧
  (s.eng.frameState = .waiting → ∀ v : Nat, s.eng.frameTimer = some v → ∀ w : State,
    w = s.setEng { s.eng with
      frameTimer := some (match s.eng.rate with
        | .brisk => s.eng.timing.brisk
        | .drowsy => s.eng.timing.drowsy)
      frameNumber := s.eng.frameNumber + 1 } →
    (¬ w.HasRoom → ys = xs ∧ w.FrameSkipped t) ∧
    (w.HasRoom → ∃ b, w.FrameBegun b ∧ (¬ w.NoSlot → ys = xs ∧ t = b) ∧ (w.NoSlot → finished xs b ys t)))

/-- `t` is `s` after `n` expiries that no other event separates. -/
def State.ExpiredTimes (finished : List EndExpiries → State → List EndExpiries → State → Prop) :
    Nat → List EndExpiries → State → List EndExpiries → State → Prop
  | 0, xs, s, ys, t => ys = xs ∧ t = s
  | n + 1, xs, s, ys, t => ∃ zs u, s.ExpiredOnce finished xs zs u ∧ State.ExpiredTimes finished n zs u ys t

/-- The end of an admitted frame whose last slot is done (R119), with the expiries that the first of the entries `xs` places
inside it, and with those that the next entries place inside the ends of the frames that begin and end in the same event:
steps 1 to 6, with the boundary request that has waited for the frame's end applied; the expiries in WAITING before and after
a request that the walker passed in the last slot reaches the engine (R112, R31, R121; log entry 28); and, with the start pending
mark then set and no frame begun, the admission check of step 7. `t` is `s` after it, and `ys` the entries left; `n` is the number of entries. -/
def State.FrameFinished : (n : Nat) → List EndExpiries → State → List EndExpiries → State → Prop
  | 0, xs, s, ys, t => ys = xs ∧ s.FrameFinishedPlain t
  | _ + 1, [], s, ys, t => ys = [] ∧ s.FrameFinishedPlain t
  | n + 1, x :: xs, s, ys, t =>
    ∃ (u w u' v y : State) (xs' zs : List EndExpiries), s.FrameEnded x u ∧ u.AppliesReached w ∧
      w.ExpiredTimes (State.FrameFinished n) x.unreached xs xs' u' ∧ u'.ReachesEngine v ∧
      v.ExpiredTimes (State.FrameFinished n) x.left xs' zs y ∧
      (y.eng.startPending = false ∨ y.eng.frameState ≠ .waiting → ys = zs ∧ t = y) ∧
      (y.eng.startPending = true → y.eng.frameState = .waiting → ∀ w : State, w = y.setEng { y.eng with startPending := false } →
        (¬ w.HasRoom → ys = zs ∧ w.FrameSkipped t) ∧
        (w.HasRoom → ∃ b, w.FrameBegun b ∧ (¬ w.NoSlot → ys = zs ∧ t = b) ∧
          (w.NoSlot → State.FrameFinished n zs b ys t)))

/-- `t` is `s` after the end of its frame, whose last slot is done, with the expiries inside the ends that `ends` gives. -/
def State.FrameFinishes (ends : List EndExpiries) (s t : State) : Prop :=
  ∃ left : List EndExpiries, State.FrameFinished ends.length ends s left t

/-! ### The stop order, spelled out -/

/-- The scan engine's part of the stop order (R123, R48): `t` is `s` after it. -/
def State.ScanStopped (s t : State) : Prop :=
  (s.eng.frameState = .waiting → t = s.setEng { s.eng with frameTimer := none, frameState := .parked }) ∧
  (s.eng.frameState = .scanning → (∃ v, s.arb.grant = .scan v) →
    t = s.setEng { s.eng with frameTimer := none, frameState := .cutting }) ∧
  (s.eng.frameState = .scanning → (∀ v, s.arb.grant ≠ .scan v) → ∃ u : State,
    ((s.setEng { s.eng with frameTimer := none }).setArb { s.arb with scanWaits := false }).CutEnded u ∧ u.AppliesWaiting t)

/-- The spot unit's part of the stop order (R154, R53, R48): `t` is `s` after it. A QUEUED spot ends ABORTED at once, a
CONVERTING one when its sub-conversion completes unless an earlier order stands, and a CLOSING one keeps its code. -/
def State.SpotStopped (s t : State) : Prop :=
  (∀ h, s.spt.state = .queued h →
    t.spt = { s.spt with
      state := .closing h .aborted
      writes := s.spt.writes ++
        [{ kind := .result, addr := h.addr + 8, data := [ofHalves h.tag 10, 0] },
         { kind := .closed, addr := h.addr + 4, data := [ofBytes 4 14 h.flags 0] }] } ∧
    t.arb = { s.arb with spotWaits := false } ∧ t.point h.point = { s.point h.point with spotBusy := false } ∧
    (∀ q : PointId, q ≠ h.point → t.point q = s.point q) ∧ t.eng = { s.eng with points := t.eng.points }) ∧
  (∀ h sums, s.spt.state = .converting h sums none →
    t = s.setSpt { s.spt with state := .converting h sums (some .aborted) }) ∧
  ((∀ h, s.spt.state ≠ .queued h) → (∀ h sums, s.spt.state ≠ .converting h sums none) → t = s) ∧
  t.wk = s.wk ∧ t.jrn = s.jrn ∧ t.mir = s.mir ∧ t.out = s.out ∧ t.atn = s.atn ∧ t.mem = s.mem ∧ t.ctl = s.ctl

/-- The walker's part of the stop order (R34, R23): `t` is `s` after it. The pending look is cleared, RESTING becomes
IDLE, and a SPOT in WORKING that the spot unit has not accepted is closed ABORTED. -/
def State.WalkerStopped (s t : State) : Prop :=
  (s.wk.state = .resting → t = s.setWk { s.wk with state := .idle, pendingLook := false }) ∧
  (∀ h, (s.wk.state = .workingSpot h ∨ ∃ p m, s.Working h (.spot p m)) →
    t = (s.setWk { s.wk with state := .closingResult h { code := .aborted, value := 0, params := [] }, pendingLook := false }).setPort
      (s.port ++ [{ kind := .resultWrite, addr := h.addr + 8, data := [ofHalves (blockHalf h.block 8) 10, 0] }])) ∧
  (s.wk.state ≠ .resting → (∀ h, s.wk.state ≠ .workingSpot h) → (∀ h p m, ¬ s.Working h (.spot p m)) →
    t = s.setWk { s.wk with pendingLook := false })

/-! ### Memory faults, spelled out -/

/-- `t` is what an event of the scan engine makes of `s`: what the event's own command makes of it, the boundary request that waits applied between frames (R121), or the stop order given in RUNNING (R172). -/
def State.LedBy (s : State) (e : ScanEvent) (t : State) : Prop :=
  match e with
  | .scanConversion count ends => exec (.scanConversionComplete count ends) s = .next t
  | .frameExpiry ends => exec (.frameTimerExpiry ends) s = .next t
  | .boundary => (s.betweenFrames = true → s.AppliesWaiting t) ∧ (s.betweenFrames = false → t = s)
  | .stopOrder =>
    (s.ctl.op ≠ .running → t = s) ∧
      (s.ctl.op = .running → ∃ a b : State,
        (s.setCtl { s.ctl with op := .stopping, run := false, refusedWrite := false }).ScanStopped a ∧ a.SpotStopped b ∧
        b.WalkerStopped t)

/-- Each line of `t` is that of `o` at its fault level (R166). -/
def State.LinesAtFault (o : OutputUnit) (t : State) : Prop :=
  ∀ n : Fin 8, t.out.lines[n] = { o.lines[n] with
    level := (match (o.lines[n]).faultLevel with
      | .active => true
      | .inactive => false
      | .hold => (o.lines[n]).level) }

/-- `t` is `s` after the entry to FAULTED for the access `a` (R12, R36, R48, R124, R146, R155, R6, R166, R175): every unit
stops at once, the lines take their fault levels, and the tables, the pool and RUN are kept. Memory is not named. -/
def State.FaultedBy (s : State) (a : Access) (kind : FaultKind) (bit : BitVec 3) (t : State) : Prop :=
  t.ctl = { s.ctl with op := .faulted, faultKind := kind, faultAddr := a.addr } ∧
  t.readRegister 0x1C = some a.addr ∧ t.port = [] ∧
  t.wk = { s.wk with state := .idle, pendingLook := false } ∧
  t.eng = { s.eng with frameTimer := none, frameState := .parked, slot := none } ∧
  t.arb.Idle ∧ t.jrn = { s.jrn with writes := [], lingerTimer := none, closeMark := .none } ∧
  t.spt = { state := .empty, writes := [], snapshot := none } ∧ t.mir = { writing := none, waiting := none, during := .between } ∧
  t.out.view = s.out.view ∧ t.out.entryAfter = none ∧ State.LinesAtFault s.out t ∧
  t.atn.fault = { s.atn.fault with pending := true, causes := s.atn.fault.causes ||| bit } ∧
  t.atn.trip = s.atn.trip ∧ t.atn.journal = s.atn.journal ∧ t.atn.chain = s.atn.chain ∧ t.atn.tripIndex = s.atn.tripIndex

/-! ### Invariants -/

/-- The relation that the gap count keeps (R117): the frame number is that of the last admitted frame, plus the gap count,
the merged count and a pending start; and between frames, outside FAULTED, nothing is merged and no start is pending. -/
def State.GapCounts (s : State) : Prop :=
  s.eng.frameNumber = s.eng.frameInProgress + s.eng.gap + s.eng.merged + (if s.eng.startPending then 1 else 0) ∧
  (s.betweenFrames = true → s.ctl.op ≠ .faulted → s.eng.merged = 0 ∧ s.eng.startPending = false)

/-- Shared memory keeps its canonical form. -/
def State.MemoryCanonical (s : State) : Prop := Memory.wf s.mem

/-- Every unit but the control unit and the attention unit stands as the resets leave it. -/
def State.UnitsAtReset (s : State) : Prop :=
  s.wk = State.reset.wk ∧ s.eng = ScanEngine.reset ∧ s.arb = State.reset.arb ∧ s.jrn = Journal.reset ∧
    s.spt = State.reset.spt ∧ s.mir = State.reset.mir ∧ s.out = OutputUnit.reset

/-- What each operating state says of the units (R169, R170, R171, R13, R36, R48, R124, R146, R155, R173). -/
def State.ModeCoherent (s : State) : Prop :=
  match s.ctl.op with
  | .off => s.UnitsAtReset ∧ s.port = []
  | .loading => s.UnitsAtReset ∧ s.port = [{ kind := .headerRead, addr := s.ctl.areaBase, data := [] }]
  | .running => s.eng.frameTimer.isSome ∧ s.wk.state ≠ .idle ∧ (s.eng.frameState = .waiting ∨ s.eng.frameState = .scanning)
  | .stopping => s.eng.frameTimer = none ∧ (s.eng.frameState = .parked ∨ s.eng.frameState = .cutting)
  | .stopped => s.eng.frameTimer = none ∧ s.wk.state = .idle ∧ s.eng.frameState = .parked ∧ s.arb.Idle ∧ s.spt.state = .empty
  | .faulted =>
    s.eng.frameTimer = none ∧ s.wk.state = .idle ∧ s.eng.frameState = .parked ∧ s.arb.Idle ∧ s.spt.state = .empty ∧
      s.port = [] ∧ s.jrn.writes = [] ∧ s.jrn.lingerTimer = none ∧ s.spt.writes = [] ∧ s.mir.writing = none

/-- Stored RUN by operating state (R178), AREA_BASE aligned (R1), and the fault kind and address by operating
state (R179, R180). -/
def ControlUnit.Coherent (c : ControlUnit) : Prop :=
  (c.op = .off ∨ c.op = .stopping ∨ c.op = .stopped → c.run = false) ∧
    (c.op = .loading ∨ c.op = .running → c.run = true) ∧
    c.areaBase.toNat % 256 = 0 ∧
    (c.op = .faulted ↔ c.faultKind ≠ .none) ∧
    (c.op ≠ .faulted → c.faultAddr = 0)

/-- The page pool (R126, R14): at most 16 pages queued, each page once in the queue and the slot, every page
at a multiple of 4096 other than 0. -/
def Journal.PoolOk (j : Journal) : Prop :=
  let pool := j.queue ++ (match j.page with
    | some page => [page.addr]
    | none => [])
  j.queue.length ≤ 16 ∧ pool.Nodup ∧ ∀ a ∈ pool, a ≠ 0 ∧ a.toNat % 4096 = 0

/-- The settings lie in the ranges of R39. -/
def Settings.InRange (c : Settings) : Prop :=
  1 ≤ c.integration ∧ c.integration ≤ 16 ∧ 64 ≤ c.calTarget ∧ c.calTarget ≤ 60000 ∧ 1 ≤ c.calBand ∧ c.calBand ≤ 4095 ∧
    1 ≤ c.threshold ∧ c.threshold ≤ 4095 ∧ c.hysteresis < c.threshold ∧ c.enterDebounce ≤ 15 ∧ c.exitDebounce ≤ 15 ∧
    c.slowBeta ≤ 15 ∧ 1 ≤ c.fastBeta ∧ c.fastBeta ≤ c.slowBeta ∧ c.stuckLimit ≤ 65535

/-- A point's debounce counter by its state (R78). -/
def Point.DebounceOk (pt : Point) : Prop :=
  match pt.state with
  | .idle => pt.debounce = 0
  | .engaged => pt.debounce = 0
  | .entering => 1 ≤ pt.debounce ∧ pt.debounce < pt.cfg.enterDebounce
  | .leaving => 1 ≤ pt.debounce ∧ pt.debounce < pt.cfg.exitDebounce
  | .calibrating => pt.debounce = 0
  | .fault => pt.debounce = 0
  | .disabled => pt.debounce ≤ 15

/-- A point's items lie in the ranges of R40, with the baseline in units of 1/256 (R87), and agree with its
state: fault cause in FAULT only (R40), calibration phase in CALIBRATING only (R58), debounce counter (R78), armed
reseed in a detecting state only (R94), armed recalibrate never in DISABLED or CALIBRATING (R69, R67). -/
def Point.Ok (pt : Point) : Prop :=
  pt.cfg.InRange ∧ pt.baseline ≤ 65535 * 256 + 255 ∧ pt.stuck ≤ 65535 ∧ pt.calStep ≤ 9 ∧ pt.DebounceOk ∧
    (pt.state = .fault ↔ pt.faultCause ≠ .none) ∧ (pt.state = .calibrating ↔ pt.calPhase ≠ .none) ∧
    (pt.calPhase = .none → pt.calStep = 0) ∧
    (pt.armedReseed = true → pt.state.detecting = true) ∧
    (pt.armedRecal = true → pt.state = .fault ∨ pt.state.detecting = true) ∧
    (pt.seedPending = true → pt.state = .idle)

/-- Every record of the point table is one the rules leave. -/
def State.PointsOk (s : State) : Prop := ∀ p : PointId, (s.point p).Ok

/-- A point belongs to at most one group, a reference is a member, and weights are at most 512 (R96, R97). -/
def GroupsOk (groups : Vector Group 4) : Prop :=
  (∀ (i j : Fin 4) (p : PointId), inSet groups[i].members p = true → inSet groups[j].members p = true → i = j) ∧
    ∀ (i : Fin 4), groups[i].weight ≤ 512 ∧ ∀ p : PointId, groups[i].reference = some p → inSet groups[i].members p = true

/-- The output unit's view equals the point table's states (R160). -/
def State.ViewOk (s : State) : Prop := ∀ p : PointId, s.out.view[p] = (s.point p).state

/-- Outside FAULTED the output unit's view equals the point table's states (R160; in FAULTED the table may hold a change
that the fault cut off, R166), and no entry to FAULTED stands before the unit (the model's own field, log entry 29). -/
def State.ViewFollows (s : State) : Prop := s.out.entryAfter = none ∧ (s.ctl.op ≠ .faulted → s.ViewOk)

/-- The accesses an agent has in the port. -/
def State.accessesOf (s : State) (g : Agent) : List Access := s.port.filter fun a => a.kind.agent = g

/-- The access the walker waits for, by what it is doing (R2, R20). -/
def State.walkerAccess (s : State) : List Access :=
  if s.ctl.op = .loading then [{ kind := .headerRead, addr := s.ctl.areaBase, data := [] }]
  else
    match s.wk.state with
    | .fetchLink => [{ kind := .linkRead, addr := s.wk.anchor.linkAddr s.ctl.areaBase, data := [] }]
    | .fetchBlock a => [{ kind := .blockRead, addr := a, data := [] }]
    | .fetchTaken h => [{ kind := .takenWrite, addr := h.addr + 4, data := [takenWord h.block] }]
    | .closingResult h a =>
      [{ kind := .resultWrite, addr := h.addr + 8, data := resultWords (blockHalf h.block 8) a.code a.value a.params }]
    | .closingStatus h _ => [{ kind := .closedWrite, addr := h.addr + 4, data := [closedWord h.block] }]
    | _ => []

/-- Each agent has exactly the access it waits for in the port, and so at most one (R9): the walker by its state,
the journal unit and the spot unit the oldest write of their write lists, the mirror writer its image; and no event of the scan
engine is left carried out (the model's own item, log entry 27). -/
def State.PortOk (s : State) : Prop :=
  s.mir.during = .between ∧
  s.accessesOf .walker = s.walkerAccess ∧
    s.accessesOf .journal =
      (match s.jrn.writes with
        | [] => []
        | w :: _ => [{ kind := .journalWrite, addr := w.addr, data := w.data }]) ∧
    s.accessesOf .spot =
      (match s.spt.writes with
        | [] => []
        | w :: _ => [{ kind := w.kind.access, addr := w.addr, data := w.data }]) ∧
    s.accessesOf .mirror =
      (match s.mir.writing with
        | none => []
        | some w => [{ kind := .mirrorWrite, addr := s.ctl.areaBase + 32, data := w.image.words }])

end Sys2Proof.Machine
end

