-- ==== Sys2Proof/Certificates/Slice0/Obligations.lean ====
section
/-! DEFINITION. The statements about the model, one def an obligation; OBLIGATIONS.json gives each its title, its tier and the rules of spec/ it formalises. -/

open Sys2Proof
open Sys2Proof.Machine

/-! ### The queue and the outcome of a command -/

/-- A step takes the command at the front of the queue and carries it out with the queue's rest; with an empty
queue the block idles (the second clause is the model's choice, log entry 1). -/
def Obligations.StepTakesFrontCommand : Prop :=
  (∀ (c : Instr) (rest : List Instr) (s : State), step (s.setPending (c :: rest)) = exec c (s.setPending rest)) ∧
    ∀ s : State, s.pending = [] → step s = .next s

/-- Every command completes in every state; it leaves the queue alone, and only an ATTENTION read gives the register
port new data. (The queue and the read data are the model's own fields, log entries 1 and 6; that no command stops is
log entry 26.) -/
def Obligations.EveryCommandCompletes : Prop :=
  ∀ (c : Instr) (s : State), ∃ t, exec c s = .next t ∧ t.pending = s.pending ∧ (c ≠ .attentionRead → t.readData = s.readData)

/-! ### Resets (R176) -/

/-- A hardware reset, from any state: the units' reset values, no access, no attention, and what the eight registers
then read (R176); memory as last written when no burst but a page header's was in flight, so that a block whose TAKEN or
CLOSED write did not complete keeps its status and a page whose header write did not complete keeps its header (R13, R37,
R155, R147); and the reset values that the rules of each unit give (R39, R40, R96, R108,
R110, R120, R125, R148, R159, R160). (The operand that keeps RESETn low is log entry 5; the output unit's mark of an entry to
FAULTED and the mirror writer's `during` are the model's own fields, log entries 29 and 27.) -/
def Obligations.HardwareResetClears : Prop :=
  (∀ s : State, s.UnitsAtReset →
    (∀ p : PointId, (s.point p).state = .disabled ∧ (s.point p).faultCause = .none ∧ (s.point p).lastCount = 0 ∧
      (s.point p).baseline = 0 ∧ (s.point p).lastRawDelta = 0 ∧ (s.point p).lastDelta = 0 ∧ (s.point p).debounce = 0 ∧
      (s.point p).stuck = 0 ∧ (s.point p).calPhase = .none ∧ (s.point p).calStep = 0 ∧ (s.point p).tuning = ⟨0, 0, 0⟩ ∧
      (s.point p).armedReseed = false ∧ (s.point p).armedRecal = false ∧ (s.point p).seedPending = false ∧
      (s.point p).spotBusy = false ∧
      (s.point p).cfg = { integration := 1, calMode := .none, calTarget := 64, calBand := 1, gains := ⟨0, 0, 0⟩,
                          direction := .rising, threshold := 1, hysteresis := 0, enterDebounce := 0, exitDebounce := 0,
                          slowBeta := 1, fastBeta := 1, stuckLimit := 0, autoRecalibrate := false, urgent := false,
                          verbose := false }) ∧
    (∀ i : Fin 4, s.eng.groups[i] = { members := 0, reference := none, weight := 0, halt := false }) ∧
    s.eng.timing = { brisk := 20, drowsy := 200, drowsyAfter := 0, linger := 0 } ∧
    s.eng.frameTimer = none ∧ s.eng.frameNumber = 0 ∧ s.eng.frameInProgress = 0 ∧ s.eng.frameState = .parked ∧
    s.eng.startPending = false ∧ s.eng.merged = 0 ∧ s.eng.gap = 0 ∧ s.eng.rate = .brisk ∧ s.eng.quiet = 0 ∧ s.eng.mark = none ∧
    s.arb.Idle ∧
    s.jrn = { queue := [], page := none, recordSeq := 0, pageSeq := 0, lingerTimer := none, closeMark := .none,
              frameOpen := false, starved := false, writes := [], linger := 0 } ∧
    s.spt = { state := .empty, writes := [], snapshot := none } ∧ s.mir = { writing := none, waiting := none, during := .between } ∧
    s.wk = { state := .idle, anchor := .none, pendingLook := false, badLink := false } ∧
    (∀ n : Fin 8, s.out.lines[n] = { owner := .direct, drive := .off, linkSet := 0, linkStates := ⟨false, false, false⟩,
                                     faultLevel := .hold, level := false } ∧ s.outPin n = .highZ) ∧
    s.out.entryAfter = none ∧ ∀ p : PointId, s.out.view[p] = .disabled) ∧
  (∀ (heldLow : Bool) (s : State), ∃ t, exec (.hardwareReset heldLow) s = .next t ∧
    t.ctl = { op := .off, run := false, refusedWrite := false, areaBase := 0, faultKind := .none, faultAddr := 0,
              resetHeld := heldLow } ∧
    t.UnitsAtReset ∧ t.port = [] ∧ t.atn = Attention.reset ∧ t.pending = s.pending ∧
    ((∀ a rest, s.port = a :: rest → a.LeavesMemory) → t.mem = s.mem) ∧
    t.readRegister 0x00 = some 0x0A310120#32 ∧ t.readRegister 0x04 = some 0#32 ∧ t.readRegister 0x08 = some 0#32 ∧
    t.readRegister 0x0C = some 0#32 ∧ t.readRegister 0x10 = some 0#32 ∧ t.readRegister 0x14 = some 0x00FF0000#32 ∧
    t.readRegister 0x18 = some 0#32 ∧ t.readRegister 0x1C = some 0#32)

/-- A software reset, from any state: as a hardware reset, but AREA_BASE and the four enables are kept (R176, R186);
memory is as last written when no burst but a page header's was in flight (R13, R37, R155, R147). -/
def Obligations.SoftwareResetKeeps : Prop :=
  ∀ (c : Instr) (data : Word) (s : State), controlData c = some data → s.ctl.resetHeld = false → Control.reset data = true →
    ∃ t, exec c s = .next t ∧
      t.ctl = { op := .off, run := false, refusedWrite := false, areaBase := s.ctl.areaBase, faultKind := .none,
                faultAddr := 0, resetHeld := false } ∧
      t.UnitsAtReset ∧ t.port = [] ∧ t.atn.tripIndex = none ∧ t.pending = s.pending ∧
      ((∀ a rest, s.port = a :: rest → a.LeavesMemory) → t.mem = s.mem) ∧
      (∀ k : AttnClass, t.atn.cls k =
        { pending := false, causes := 0, inService := false, enabled := (s.atn.cls k).enabled }) ∧
      t.atn.attn = false ∧ t.attentionVector = 0x00FF0000#32

/-- While RESETn is held low register writes are ignored, and when it rises the port takes them again (R176); a write to
IDENT, STATUS, ATTENTION or FAULT_ADDR changes nothing at any time, the refused-write flag included, and IDENT reads the
same in every state (R177). -/
def Obligations.IgnoredRegisterWrites : Prop :=
  (∀ (reg : IgnoredRegister) (data : Word) (s : State),
    exec (.ignoredRegisterWrite reg data) s = .next s ∧ s.readRegister 0x00 = some 0x0A310120#32) ∧
  (∀ s : State,
    exec .resetnRise s = .next (s.setCtl { s.ctl with resetHeld := false }) ∧
      (s.ctl.resetHeld = true → ∀ (data : Word) (reg : IgnoredRegister),
        (∀ c : Instr, controlData c = some data → exec c s = .next s) ∧
          exec (.areaBaseWrite data) s = .next s ∧ exec (.attnEnableWrite data) s = .next s ∧
          exec (.serviceWrite data) s = .next s ∧ exec (.ignoredRegisterWrite reg data) s = .next s))

/-! ### CONTROL and AREA_BASE -/

/-- What CONTROL and STATUS read in any state (R177, R179; 13, Registers). A CONTROL write without RESET (R178): taken by RUN,
the operating state and LOOK, whichever of its six rows it is. (That the six rows are one operation is log entry 4; that
STATUS shows the walker IDLE in FAULTED is log entry 16.) -/
def Obligations.ControlWriteTaken : Prop :=
  (∀ s : State, s.ControlReads ∧ s.StatusReads) ∧
  ∀ (c : Instr) (data : Word) (s : State), controlData c = some data → s.ctl.resetHeld = false → Control.reset data = false →
    ∃ t, exec c s = .next t ∧
      (Control.run data ≠ s.ctl.run →
        (s.ctl.op = .off → t.ctl = { s.ctl with op := .loading, run := true, refusedWrite := false }) ∧
        (s.ctl.op = .running → t.ctl = { s.ctl with op := .stopping, run := false, refusedWrite := false }) ∧
        (s.ctl.op = .stopped → t.ctl = { s.ctl with op := .running, run := true, refusedWrite := false }) ∧
        (s.ctl.op = .loading ∨ s.ctl.op = .stopping ∨ s.ctl.op = .faulted →
          t = s.setCtl { s.ctl with refusedWrite := true })) ∧
      (Control.run data = s.ctl.run →
        t.ctl = { s.ctl with refusedWrite := false } ∧
        (Control.look data = false ∨ s.ctl.op ≠ .running → t = s.setCtl { s.ctl with refusedWrite := false }))

/-- A LOOK heard in RUNNING (R22, R23): a RESTING walker reads its anchor's link, a busy one keeps one pending look. The
link stands in the chain link field of the header, 8 bytes into the exchange area, or in the first word of a block (R3; 13,
Exchange area and Request block). -/
def Obligations.LookIsHeard : Prop :=
  (∀ areaBase a : Word, Anchor.linkAddr areaBase .header = areaBase + 8 ∧ Anchor.linkAddr areaBase (.block a) = a) ∧
  ∀ (c : Instr) (data : Word) (s : State), controlData c = some data → s.ctl.resetHeld = false → Control.reset data = false →
    Control.run data = s.ctl.run → Control.look data = true → s.ctl.op = .running →
    (s.wk.state = .resting → exec c s = .next
      (((s.setCtl { s.ctl with refusedWrite := false }).setWk { s.wk with state := .fetchLink }).setPort
        (s.port ++ [{ kind := .linkRead, addr := s.wk.anchor.linkAddr s.ctl.areaBase, data := [] }]))) ∧
    (s.wk.state ≠ .resting → s.wk.state ≠ .idle → exec c s = .next
      ((s.setCtl { s.ctl with refusedWrite := false }).setWk { s.wk with pendingLook := true }))

/-- RUN set in OFF enters LOADING and issues the header read, and nothing else changes (R170); RUN set in
STOPPED resumes: timer afresh by the rate, WAITING, and a look at once that uses the pending look (R174, R21, R109). -/
def Obligations.RunSetStarts : Prop :=
  ∀ (c : Instr) (data : Word) (s : State), controlData c = some data → s.ctl.resetHeld = false → Control.reset data = false →
    Control.run data = true → s.ctl.run = false →
    (s.ctl.op = .off → exec c s = .next
      ((s.setCtl { s.ctl with op := .loading, run := true, refusedWrite := false }).setPort
        (s.port ++ [{ kind := .headerRead, addr := s.ctl.areaBase, data := [] }]))) ∧
    (s.ctl.op = .stopped → exec c s = .next
      ((((s.setCtl { s.ctl with op := .running, run := true, refusedWrite := false }).setEng
        { s.eng with
          frameTimer := some (match s.eng.rate with
            | .brisk => s.eng.timing.brisk
            | .drowsy => s.eng.timing.drowsy)
          frameState := .waiting }).setWk { s.wk with state := .fetchLink, pendingLook := false }).setPort
        (s.port ++ [{ kind := .linkRead, addr := s.wk.anchor.linkAddr s.ctl.areaBase, data := [] }])))

/-- RUN cleared in RUNNING (R172): the stop order. The scan engine stops its timer and parks, goes on to the end of a
granted conversion, or ends the frame as a cut frame at once with the boundary request that waits applied (R123, R48,
R134); the held spot is ordered to end (R154, R53); the walker's pending look is cleared, RESTING ends, and a SPOT in
WORKING that the spot unit has not accepted is closed ABORTED (R34). Memory, mirror writer and attention are left alone.
(The order of the units within the one event is log entry 13, that of their accesses log entry 9; byte 7 of the status
word is written zero, log entry 15.) -/
def Obligations.StopOrderGiven : Prop :=
  ∀ (c : Instr) (data : Word) (s : State), controlData c = some data → s.ctl.resetHeld = false → Control.reset data = false →
    Control.run data = false → s.ctl.run = true → s.ctl.op = .running →
    s.eng.frameState = .waiting ∨ s.eng.frameState = .scanning →
    ∃ t, exec c s = .next t ∧ t.eng.frameTimer = none ∧ t.wk.pendingLook = false ∧ t.wk.anchor = s.wk.anchor ∧
      t.wk.badLink = s.wk.badLink ∧ t.mem = s.mem ∧ t.mir = s.mir ∧ t.atn = s.atn ∧ t.eng.frameNumber = s.eng.frameNumber ∧
      (s.wk.state = .resting → t.wk.state = .idle) ∧
      (s.eng.frameState = .waiting → t.eng.frameState = .parked ∧ t.eng.gap = s.eng.gap ∧ t.jrn = s.jrn) ∧
      (s.eng.frameState = .scanning → (∃ v, s.arb.grant = .scan v) → t.eng.frameState = .cutting ∧ t.jrn = s.jrn) ∧
      (s.eng.frameState = .scanning → (∀ v, s.arb.grant ≠ .scan v) →
        t.eng.frameState = .parked ∧ t.arb.scanWaits = false ∧ t.jrn.frameOpen = false ∧ t.eng.startPending = false ∧
        t.eng.merged = 0 ∧ t.eng.gap = s.eng.gap + s.eng.merged + (if s.eng.startPending then 1 else 0)) ∧
      ∃ a b x : State,
        (s.setCtl { s.ctl with op := .stopping, run := false, refusedWrite := false }).ScanStopped a ∧ a.SpotStopped b ∧
        b.WalkerStopped x ∧ x.SameButOrder t

/-- A write to AREA_BASE (R1): in OFF the value with its low eight bits as zero is stored; elsewhere only the
refused-write flag is set. -/
def Obligations.AreaBaseWriteStores : Prop :=
  ∀ (data : Word) (s : State), s.ctl.resetHeld = false →
    (s.ctl.op = .off → ∃ a : Word, a.toNat = 256 * (data.toNat / 256) ∧
      exec (.areaBaseWrite data) s = .next (s.setCtl { s.ctl with areaBase := a }) ∧
      (s.setCtl { s.ctl with areaBase := a }).readRegister 0x0C = some a) ∧
    (s.ctl.op ≠ .off → exec (.areaBaseWrite data) s = .next (s.setCtl { s.ctl with refusedWrite := true }))

/-! ### Attention (R181 to R185) -/

/-- A write to ATTN_ENABLE stores the four enables and leaves everything else of the device alone; a read returns
them; and ATTN is high exactly when some class is pending, enabled and of higher priority than every class in
service (R183). -/
def Obligations.AttnEnableAndLine : Prop :=
  (∀ (data : Word) (s : State), s.ctl.resetHeld = false → ∃ a : Attention,
    exec (.attnEnableWrite data) s = .next (s.setAtn a) ∧ a.tripIndex = s.atn.tripIndex ∧
    (∀ k : AttnClass, (a.cls k).pending = (s.atn.cls k).pending ∧ (a.cls k).causes = (s.atn.cls k).causes ∧
      (a.cls k).inService = (s.atn.cls k).inService) ∧
    a.fault.enabled = data.getLsbD 0 ∧ a.trip.enabled = data.getLsbD 1 ∧ a.journal.enabled = data.getLsbD 2 ∧
    a.chain.enabled = data.getLsbD 3 ∧ (s.setAtn a).readRegister 0x10 = some (data &&& 0xF#32)) ∧
  ∀ a : Attention, a.attn = true ↔ ∃ k : AttnClass, (a.cls k).pending = true ∧ (a.cls k).enabled = true ∧
    ∀ j : AttnClass, (a.cls j).inService = true → k.code.toNat < j.code.toNat

/-- A read of ATTENTION (R184): the highest eligible class is returned with its causes and TRIP's index, and
acknowledged; with none eligible the read returns NONE and changes nothing of the attention unit. The classes' codes are
those of 13, and the bits of the vector that carry no field read 0 (R188). -/
def Obligations.AttentionReadAcknowledges : Prop :=
  (AttnClass.fault.code = 1 ∧ AttnClass.trip.code = 2 ∧ AttnClass.journal.code = 3 ∧ AttnClass.chain.code = 4) ∧
  ∀ (s : State),
    (∀ k : AttnClass, s.atn.eligible k = true → (∀ j : AttnClass, j.code.toNat < k.code.toNat → s.atn.eligible j = false) →
      ∃ (v : Word) (a : Attention), exec .attentionRead s = .next ((s.setReadData v).setAtn a) ∧
        v.extractLsb' 0 3 = k.code ∧ v.extractLsb' 8 3 = (s.atn.cls k).causes ∧
        v.extractLsb' 16 8 = (match k, s.atn.tripIndex with
          | .trip, some i => BitVec.ofNat 8 i.point.val
          | _, _ => 0xFF) ∧
        v.extractLsb' 3 5 = 0 ∧ v.extractLsb' 11 5 = 0 ∧ v.extractLsb' 24 8 = 0 ∧
        a.cls k = { pending := false, causes := 0, inService := true, enabled := (s.atn.cls k).enabled } ∧
        (∀ j : AttnClass, j ≠ k → a.cls j = s.atn.cls j) ∧
        a.tripIndex = (if k = .trip then none else s.atn.tripIndex)) ∧
    ((∀ k : AttnClass, s.atn.eligible k = false) →
      exec .attentionRead s = .next (s.setReadData 0x00FF0000#32))

/-- A write to SERVICE, of any value and in any operating state (R185): the highest class in service leaves
service, pending flags and cause sets stand, with none in service nothing changes, SERVICE reads 0, and the class
ended is the one the last ATTENTION read acknowledged. -/
def Obligations.ServiceEndsHighest : Prop :=
  ∀ (data : Word) (s : State), s.ctl.resetHeld = false →
    (∀ k : AttnClass, (s.atn.cls k).inService = true →
      (∀ j : AttnClass, j.code.toNat < k.code.toNat → (s.atn.cls j).inService = false) →
      exec (.serviceWrite data) s = .next (s.setAtn (s.atn.setCls k { s.atn.cls k with inService := false }))) ∧
    ((∀ k : AttnClass, (s.atn.cls k).inService = false) → exec (.serviceWrite data) s = .next s) ∧
    s.readRegister 0x18 = some 0#32 ∧
    ∀ (k : AttnClass) (t u : State), s.atn.eligible k = true →
      (∀ j : AttnClass, j.code.toNat < k.code.toNat → s.atn.eligible j = false) →
      exec .attentionRead s = .next t → exec (.serviceWrite data) t = .next u →
      (t.atn.cls k).inService = true ∧ (u.atn.cls k).inService = false ∧
        ∀ j : AttnClass, j ≠ k → (u.atn.cls j).inService = (s.atn.cls j).inService

/-- TRIP's point index: which point a cause leaves there, and what returns it to none (R182). With it, for every cause: its
class becomes pending and its set holds the cause, whatever the class's state, and no other class is touched (R181); the
classes' codes and each cause's bit of the attention vector, bit 8 being the lowest of the cause set, are those of 13,
Registers. -/
def Obligations.TripIndexRule : Prop :=
  (AttnClass.fault.code = 1 ∧ AttnClass.trip.code = 2 ∧ AttnClass.journal.code = 3 ∧ AttnClass.chain.code = 4) ∧
  (Cause.memError.cls = .fault ∧ Cause.memError.bit = 0b001 ∧ Cause.memTimeout.cls = .fault ∧ Cause.memTimeout.bit = 0b010 ∧
    (∀ p : PointId, (Cause.engaged p).cls = .trip ∧ (Cause.engaged p).bit = 0b001 ∧
      (Cause.pointFault p).cls = .trip ∧ (Cause.pointFault p).bit = 0b010) ∧
    Cause.pageClosed.cls = .journal ∧ Cause.pageClosed.bit = 0b001 ∧ Cause.starved.cls = .journal ∧ Cause.starved.bit = 0b010 ∧
    Cause.notify.cls = .chain ∧ Cause.notify.bit = 0b001 ∧ Cause.loadRefused.cls = .chain ∧ Cause.loadRefused.bit = 0b010 ∧
    Cause.stopped.cls = .chain ∧ Cause.stopped.bit = 0b100) ∧
  (∀ (c : Cause) (s : State),
    (raise c s) = s.setAtn (raise c s).atn ∧
    ((raise c s).atn.cls c.cls) =
      { s.atn.cls c.cls with pending := true, causes := (s.atn.cls c.cls).causes ||| c.bit } ∧
    ∀ j : AttnClass, j ≠ c.cls → (raise c s).atn.cls j = s.atn.cls j) ∧
  (∀ (s : State) (p q : PointId),
    (s.atn.tripIndex = none → (raise (.engaged p) s).atn.tripIndex = some ⟨p, .engaged⟩ ∧
      (raise (.pointFault p) s).atn.tripIndex = some ⟨p, .pointFault⟩) ∧
    (s.atn.tripIndex = some ⟨q, .pointFault⟩ → (raise (.engaged p) s).atn.tripIndex = some ⟨p, .engaged⟩ ∧
      (raise (.pointFault p) s).atn.tripIndex = some ⟨q, .pointFault⟩) ∧
    (s.atn.tripIndex = some ⟨q, .engaged⟩ → (raise (.engaged p) s).atn.tripIndex = some ⟨q, .engaged⟩ ∧
      (raise (.pointFault p) s).atn.tripIndex = some ⟨q, .engaged⟩) ∧
    (∀ c : Cause, c.cls ≠ .trip → (raise c s).atn.tripIndex = s.atn.tripIndex) ∧
    (∀ t, s.atn.highest = some .trip → exec .attentionRead s = .next t → t.atn.tripIndex = none) ∧
    (∀ (low : Bool) (t : State), exec (.hardwareReset low) s = .next t → t.atn.tripIndex = none) ∧
    ∀ (data : Word) (t : State), s.ctl.resetHeld = false → Control.reset data = true →
      exec (.softwareReset data) s = .next t → t.atn.tripIndex = none)

/-! ### Memory faults (R12) and responses that belong to no access (R13) -/

/-- A memory fault of the access on the interconnect (R12, R36, R48, R124, R146, R155, R166, R175): every unit stops
at once, the lines take their fault levels, the tables, the pool and RUN are kept, and memory is left as it was unless the
access was a burst other than a CLOSED page header's, so that a block whose TAKEN or CLOSED write failed keeps its status and a
page whose CLOSED write failed keeps the header it last had (R135). Together with an event of the scan engine (R166) the fault finds what the
event leaves, the output unit having taken as many of the event's reports as come before the entry: with none, the view and
the levels of HOLD lines are those from before the event, whatever the table then holds. With no access in flight there
is none to fail (log entry 3). (That the frame open mark and the frame in progress number are kept is log entry 17; the
operand of a fault that comes together with an event, and the output unit's own field, is log entry 29; the mirror writer's
own field is log entry 27.) -/
def Obligations.MemoryFaultStopsAll : Prop :=
  ∀ (s : State) (race : Option FaultRace) (c : Instr) (kind : FaultKind) (bit : BitVec 3),
    (c = .errorResponse race ∧ kind = .memError ∧ bit = 1 ∨ c = .responseLimitExpiry race ∧ kind = .memTimeout ∧ bit = 2) →
    (s.port = [] → exec c s = .next s) ∧
    ∀ (a : Access) (rest : List Access), s.port = a :: rest → ∃ t, exec c s = .next t ∧ (a.FaultLeavesMemory → t.mem = s.mem) ∧
      (race = none → s.FaultedBy a kind bit t) ∧
      ∀ r : FaultRace, race = some r →
        (∃ u : State, (s.setOut { s.out with entryAfter := some r.taken }).LedBy r.event u ∧ u.FaultedBy a kind bit t) ∧
        (r.taken = 0 → t.out.view = s.out.view ∧ State.LinesAtFault s.out t)

/-- FAULT_ADDR (R180): taken from the access that fails, kept in FAULTED by every command but a reset, 0 after a
reset, and 0 outside FAULTED, where a fault at address 0 is told from none by the fault kind. Stated for the states
that the invariants of the control unit admit. -/
def Obligations.FaultAddrRule : Prop :=
  ∀ (c : Instr) (s t : State), s.ctl.Coherent → s.ModeCoherent → exec c s = .next t →
    (s.ctl.op ≠ .faulted → t.ctl.op = .faulted → ∃ a rest, s.port = a :: rest ∧ t.ctl.faultAddr = a.addr) ∧
    (s.ctl.op = .faulted → t.ctl.op = .faulted → t.ctl.faultAddr = s.ctl.faultAddr ∧ t.ctl.faultKind = s.ctl.faultKind) ∧
    (s.ctl.op = .faulted → t.ctl.op ≠ .faulted → t.ctl.op = .off ∧ t.ctl.faultAddr = 0) ∧
    (t.ctl.op ≠ .faulted → t.readRegister 0x1C = some 0#32 ∧ t.ctl.faultKind = .none) ∧
    (t.ctl.op = .faulted → t.ctl.faultKind ≠ .none)

/-- A late response is discarded (R13), and a completion that is not the access on the interconnect changes
nothing (log entry 3). -/
def Obligations.StrayResponsesChangeNothing : Prop :=
  ∀ s : State, exec .lateResponse s = .next s ∧
    ∀ (c : Instr) (k : AccessKind), completedWrite c = some k ∨ completedRead c = some k → s.serving k = false →
      exec c s = .next s

/-! ### Shared memory (R8, R10, R12) -/

/-- Shared memory, here the bytes that the device's own writes have put there (the host's writes to the same memory, R15,
are left out: the model's choice, log entry 7), changes only by the access on the interconnect, at its address, and only
where a command ends that access; a write that completes stands in memory whole, byte by byte, least significant byte
lowest (R8, R10, R12, R188). -/
def Obligations.MemoryChangesOnlyByAccess : Prop :=
  (∀ (c : Instr) (s t : State), exec c s = .next t →
    (endsAccess c = false → t.mem = s.mem) ∧
    (s.port = [] → t.mem = s.mem) ∧
    ∀ (a : Access) (rest : List Access) (x : Nat), s.port = a :: rest →
      (x < a.addr.toNat ∨ a.addr.toNat + 4 * a.data.length ≤ x) → Memory.read t.mem x = Memory.read s.mem x) ∧
  (∀ (c : Instr) (k : AccessKind) (s : State) (a : Access) (rest : List Access), completedWrite c = some k → s.PortOk →
    s.port = a :: rest → a.kind = k → (k = .snapshotWrite → s.spt.snapshot ≠ none) →
    ∃ t, exec c s = .next t ∧ ∀ (i j : Nat) (w : Word), a.data[i]? = some w → j < 4 →
      Memory.read t.mem (a.addr.toNat + 4 * i + j) = some (w.extractLsb' (8 * j) 8))

/-! ### The walker's accesses -/

/-- The header read completes (R2, R3, R108, R171): a valid header starts the units, any other returns the device
to OFF with LOAD_REFUSED. -/
def Obligations.HeaderReadDecides : Prop :=
  ∀ (half : Vector Word 8) (s : State) (addr : Word) (rest : List Access), s.ctl.op = .loading →
    s.port = { kind := .headerRead, addr := addr, data := [] } :: rest →
    (half[0] = 0x53503332#32 ∧ half[1] = 1#32 → ∀ brisk : Nat,
      brisk = (if 1 ≤ half[3].toNat ∧ half[3].toNat ≤ 1000 then half[3].toNat else 20) →
      exec (.headerReadComplete half) s = .next
        ((((s.setPort rest).setCtl { s.ctl with op := .running }).setEng { s.eng with
            timing := { s.eng.timing with brisk := brisk, drowsy := max brisk s.eng.timing.drowsy }
            frameTimer := some brisk
            frameState := .waiting }).setWk { state := .resting, anchor := .header, pendingLook := false, badLink := false })) ∧
    (half[0] ≠ 0x53503332#32 ∨ half[1] ≠ 1#32 → exec (.headerReadComplete half) s = .next
      (raise .loadRefused ((s.setPort rest).setCtl { s.ctl with op := .off, run := false })))

/-- The anchor's link read completes (R24, R23, R34), and a linked block's read completes (R25, R17, R18, R34):
PENDING is written TAKEN with kind and flags as read, anything else leaves the walker resting. (Byte 7 of the status
word is written zero: log entry 15.) -/
def Obligations.WalkerReadsDecide : Prop :=
  (∀ (link : Word) (s : State) (addr : Word) (rest : List Access), s.wk.state = .fetchLink →
    s.port = { kind := .linkRead, addr := addr, data := [] } :: rest →
    (s.ctl.op = .stopping → exec (.linkReadComplete link) s = .next
      ((s.setPort rest).setWk { s.wk with state := .idle })) ∧
    (s.ctl.op ≠ .stopping → s.wk.pendingLook = false → (link = 0 ∨ link.toNat % 64 ≠ 0) →
      exec (.linkReadComplete link) s = .next
        ((s.setPort rest).setWk { s.wk with state := .resting, badLink := decide (link ≠ 0) })) ∧
    (s.ctl.op ≠ .stopping → s.wk.pendingLook = true → (link = 0 ∨ link.toNat % 64 ≠ 0) →
      exec (.linkReadComplete link) s = .next
        ((s.setWk { s.wk with state := .fetchLink, badLink := decide (link ≠ 0), pendingLook := false }).setPort
          (rest ++ [{ kind := .linkRead, addr := s.wk.anchor.linkAddr s.ctl.areaBase, data := [] }]))) ∧
    (s.ctl.op ≠ .stopping → link ≠ 0 → link.toNat % 64 = 0 →
      exec (.linkReadComplete link) s = .next
        ((s.setWk { s.wk with state := .fetchBlock link, badLink := false }).setPort
          (rest ++ [{ kind := .blockRead, addr := link, data := [] }])))) ∧
  (∀ (block : Vector Word 16) (s : State) (a addr : Word) (rest : List Access), s.wk.state = .fetchBlock a →
    s.port = { kind := .blockRead, addr := addr, data := [] } :: rest →
    (s.ctl.op = .stopping → exec (.blockReadComplete block) s = .next
      ((s.setPort rest).setWk { s.wk with state := .idle })) ∧
    (s.ctl.op ≠ .stopping → blockByte block 4 = 2 → exec (.blockReadComplete block) s = .next
      ((s.setWk { s.wk with state := .fetchTaken { addr := a, block := block } }).setPort
        (rest ++ [{ kind := .takenWrite, addr := a + 4, data := [ofBytes 3 (blockByte block 5) (blockByte block 6) 0] }]))) ∧
    (s.ctl.op ≠ .stopping → blockByte block 4 ≠ 2 → s.wk.pendingLook = false → exec (.blockReadComplete block) s = .next
      ((s.setPort rest).setWk { s.wk with state := .resting })) ∧
    (s.ctl.op ≠ .stopping → blockByte block 4 ≠ 2 → s.wk.pendingLook = true → exec (.blockReadComplete block) s = .next
      ((s.setWk { s.wk with state := .fetchLink, pendingLook := false }).setPort
        (rest ++ [{ kind := .linkRead, addr := s.wk.anchor.linkAddr s.ctl.areaBase, data := [] }]))))

/-- The walker's three writes complete (R18, R25, R26, R27, R28, R19, R34): after TAKEN a block that fails a check of
the walker's goes to CLOSING with that code and any other on by its class; the result access is followed by CLOSED,
and CLOSED by a look on the new anchor. Every answer goes out as one result access from offset 8, tag and result code
first, with the result codes of 13. Which blocks the walker refuses, BAD_KIND for a kind outside 1-14 and BAD_PARAM by the
content checks of the kind's chapter (R49, R54, R98, R122, R139, R141, R149, R156, R163, R165), what it reads from the others
and their class. (Byte 7 of the status word is written zero: log entry 15.) -/
def Obligations.WalkerWritesGoOn : Prop :=
  [ResultCode.done, .badKind, .badParam, .wrongOwner, .poolFull, .groupConflict, .pointDisabled, .pointBusy, .markBusy,
    .superseded, .aborted].map (·.code) = [0, 1, 2, 3, 4, 5, 6, 7, 8, 9, 10] ∧
  (∀ b : Vector Word 16,
    (parse b = .error .badKind ↔ (blockByte b 5).toNat = 0 ∨ 14 < (blockByte b 5).toNat) ∧
    (parse b = .error .badParam ↔ ContentFails b) ∧
    (∀ code, parse b = .error code → code = .badKind ∨ code = .badParam) ∧
    ∀ r, parse b = .ok r → r.ReadFrom b ∧ (r.cls = .boundary ↔ 6 ≤ (blockByte b 5).toNat ∧ (blockByte b 5).toNat ≤ 13)) ∧
  (∀ (h : Held) (a : Answer) (s : State),
    answer h a s = (s.setWk { s.wk with state := .closingResult h a }).setPort
      (s.port ++ [{ kind := .resultWrite, addr := h.addr + 8,
                    data := ofHalves (blockHalf h.block 8) a.code.code :: a.value :: a.params }])) ∧
  (∀ (s : State) (h : Held) (a : Access) (rest : List Access), s.wk.state = .fetchTaken h → s.port = a :: rest →
    a.kind = .takenWrite → ∀ mem : List Host.Cell, mem = Memory.putWords s.mem a.addr.toNat a.data →
    (∀ code : ResultCode, parse h.block = .error code → exec .takenWriteComplete s = .next
      (((s.setMem mem).setWk { s.wk with state := .closingResult h (Answer.refused code) }).setPort
        (rest ++ [{ kind := .resultWrite, addr := h.addr + 8, data := [ofHalves (blockHalf h.block 8) code.code, 0] }]))) ∧
    (∀ r : Request, parse h.block = .ok r → exec .takenWriteComplete s = .next
      (((s.setMem mem).setPort rest).setWk { s.wk with
        state := if r.cls = .boundary then .awaiting h .passed else .workingUnit h }))) ∧
  (∀ (s : State) (h : Held) (ans : Answer) (a : Access) (rest : List Access), s.port = a :: rest →
    ∀ mem : List Host.Cell, mem = Memory.putWords s.mem a.addr.toNat a.data →
    (s.wk.state = .closingResult h ans → a.kind = .resultWrite → exec .resultWriteComplete s = .next
      (((s.setMem mem).setWk { s.wk with state := .closingStatus h ans }).setPort
        (rest ++ [{ kind := .closedWrite, addr := h.addr + 4,
                    data := [ofBytes 4 (blockByte h.block 5) (blockByte h.block 6) 0] }]))) ∧
    (s.wk.state = .closingStatus h ans → a.kind = .closedWrite → ∀ atn : Attention,
      atn = (if (blockByte h.block 6).getLsbD 0 then s.atn.raise .notify else s.atn) →
      (s.ctl.op = .stopping → exec .closedWriteComplete s = .next
        ((((s.setMem mem).setPort rest).setAtn atn).setWk { s.wk with state := .idle, anchor := .block h.addr })) ∧
      (s.ctl.op ≠ .stopping → exec .closedWriteComplete s = .next
        ((((s.setMem mem).setAtn atn).setWk { s.wk with state := .fetchLink, anchor := .block h.addr }).setPort
          (rest ++ [{ kind := .linkRead, addr := h.addr, data := [] }])))))

/-! ### Requests of the output unit and the journal unit -/

/-- An output request that the walker holds is applied at once, inside a frame as well as between frames (R164,
R165): the new records, and the answer that goes out with the result access. -/
def Obligations.OutputRequestsApplied : Prop :=
  ∀ (s : State) (h : Held),
    (∀ (n : Fin 8) (l : Line), s.Working h (.configOutput n l) → ∃ (o : OutputUnit) (v : Word),
      exec .configOutput s = .next (answer h { code := .done, value := v, params := [] } (s.setOut o)) ∧
      o.lines[n] = { l with level := (match l.owner with
        | .direct => l.level
        | .linked => l.wanted s.out.view) } ∧
      o.view = s.out.view ∧ (∀ m : Fin 8, m ≠ n → o.lines[m] = s.out.lines[m]) ∧
      v.toNat < 256 ∧ ∀ m : Fin 8, v.getLsbD m.val = (o.lines[m]).level) ∧
    ∀ (lines : BitVec 8) (levels : Vector Bool 8), s.Working h (.setOutputs lines levels) →
      ((∃ m : Fin 8, lines.getLsbD m.val = true ∧ (s.out.lines[m]).owner = .linked) →
        exec .setOutputs s = .next (answer h { code := .wrongOwner, value := 0, params := [] } s)) ∧
      ((∀ m : Fin 8, lines.getLsbD m.val = true → (s.out.lines[m]).owner = .direct) → ∃ (o : OutputUnit) (v : Word),
        exec .setOutputs s = .next (answer h { code := .done, value := v, params := [] } (s.setOut o)) ∧
        o.view = s.out.view ∧
        (∀ m : Fin 8, o.lines[m] =
          if lines.getLsbD m.val then { s.out.lines[m] with level := levels[m] } else s.out.lines[m]) ∧
        v.toNat < 256 ∧ ∀ m : Fin 8, v.getLsbD m.val = (o.lines[m]).level)

/-- GIVE_PAGES and RECLAIM_PAGES (R140, R141). -/
def Obligations.PageRequestsApplied : Prop :=
  ∀ (s : State) (h : Held),
    (∀ pages : List Word, s.Working h (.givePages pages) →
      (16 < s.jrn.queue.length + pages.length ∨ (∃ a ∈ pages, a ∈ s.jrn.queue ∨ ∃ p, s.jrn.page = some p ∧ p.addr = a) →
        exec .givePages s = .next (answer h { code := .poolFull, value := 0, params := [] } s)) ∧
      (s.jrn.queue.length + pages.length ≤ 16 → (∀ a ∈ pages, a ∉ s.jrn.queue ∧ ∀ p, s.jrn.page = some p → p.addr ≠ a) →
        exec .givePages s = .next (answer h
          { code := .done, value := BitVec.ofNat 32 (s.jrn.queue.length + pages.length), params := [] }
          (s.setJrn { s.jrn with queue := s.jrn.queue ++ pages })))) ∧
    ∀ limit : Nat, s.Working h (.reclaimPages limit) → ∀ taken : List Word, taken = s.jrn.queue.take limit →
      exec .reclaimPages s = .next (answer h
        { code := .done, value := BitVec.ofNat 32 taken.length
          params := taken ++ List.replicate (8 - taken.length) 0 ++ [BitVec.ofNat 32 (s.jrn.queue.length - taken.length)] }
        (s.setJrn { s.jrn with queue := s.jrn.queue.drop limit }))

/-- FLUSH_JOURNAL (R142): inside a frame the close waits for its end; between frames a page with records is closed
and the answer waits for its CLOSED write, and with none to close the answer is 0. -/
def Obligations.FlushJournalApplied : Prop :=
  ∀ (s : State) (h : Held), s.Working h .flushJournal →
    (s.jrn.frameOpen = true → exec .flushJournal s = .next
      ((s.setJrn { s.jrn with closeMark := .flush }).setWk { s.wk with state := .workingFlush h })) ∧
    (s.jrn.frameOpen = false → (∀ p, s.jrn.page = some p → p.count = 0) →
      exec .flushJournal s = .next (answer h { code := .done, value := 0, params := [] } s)) ∧
    (s.jrn.frameOpen = false → ∀ p, s.jrn.page = some p → p.count ≠ 0 → ∃ t, exec .flushJournal s = .next t ∧
      t.wk = { s.wk with state := .workingFlush h } ∧
      t.jrn = { s.jrn with
        page := none
        lingerTimer := none
        closeMark := .none
        writes := s.jrn.writes ++ [{ addr := p.addr, data := pageHeader p (some .flush),
                                     closes := some { sequence := p.sequence, cause := .flush } }] } ∧
      t = ((s.setWk t.wk).setJrn t.jrn).setPort t.port)

/-! ### Requests of the scan engine (R31, R121) -/

/-- Inside a frame a boundary request that reaches the engine waits for the frame's end, and nothing else changes (R121, R31).
(What its command does inside a frame is log entry 11; with no request of its kind the command changes nothing: log entry
3.) -/
def Obligations.BoundaryRequestsWait : Prop :=
  ∀ (s : State) (c : Instr), s.eng.frameState = .scanning ∨ s.eng.frameState = .cutting →
    c ∈ [Instr.configPoint, .releasePoint, .configGroup, .setTiming, .recalibrate, .reseed, .snapshot, .mark] →
    ((∀ h r, s.Awaits h r → r.boundaryCommand ≠ some c) → exec c s = .next s) ∧
    ∀ h r, s.Awaits h r → r.boundaryCommand = some c →
      exec c s = .next (s.setWk { s.wk with state := .awaiting h .waits })

/-- CONFIG_POINT applied (R50, R66): the point's settings, tuning, marks and counters, its new state and the report of
it, and no other item of the scan engine but the points; with no spot on the point the other points, the converter and
the spot unit are left alone and the port receives the answer only. -/
def Obligations.ConfigPointApplied : Prop :=
  ∀ (s : State) (h : Held) (p : PointId) (cfg : Settings), s.betweenFrames = true → s.Awaits h (.configPoint p cfg) →
    ∃ t, exec .configPoint s = .next t ∧
      t.point p = { s.point p with
        cfg := cfg, tuning := cfg.gains, armedReseed := false, armedRecal := false, spotBusy := false, faultCause := .none,
        debounce := 0, stuck := 0, lastRawDelta := 0, lastDelta := 0,
        seedPending := decide (cfg.calMode = .none),
        state := (if cfg.calMode = .none then .idle else .calibrating),
        calPhase := (match cfg.calMode with
          | .none => .none
          | .offset => .offset
          | .full => .coarse),
        calStep := (match cfg.calMode with
          | .none => 0
          | .offset => 9
          | .full => 3) } ∧
      (s.out.entryAfter = none → s.out.view[p] = (s.point p).state → t.out.view[p] = (t.point p).state) ∧
      t.out = (if (t.point p).state = (s.point p).state then s.out else s.out.report p (t.point p).state) ∧
      t.eng = { s.eng with points := t.eng.points } ∧ t.jrn = s.jrn ∧ t.mem = s.mem ∧ t.atn = s.atn ∧ t.ctl = s.ctl ∧ t.mir = s.mir ∧
      t.wk = { s.wk with state := .closingResult h { code := .done, value := 0, params := [] } } ∧
      ((s.point p).spotBusy = false → t.arb = s.arb ∧ t.spt = s.spt ∧ (∀ q : PointId, q ≠ p → t.point q = s.point q) ∧
        t.port = s.port ++ [{ kind := .resultWrite, addr := h.addr + 8, data := [ofHalves (blockHalf h.block 8) 0, 0] }] ∧
        t.tick = s.tick)

/-- RELEASE_POINT applied (R54): DISABLED, marks cleared, out of its group; everything else of the point is kept. The change
is reported unless the point was DISABLED (R43), so that a LINKED line loses its contribution, and no other item of the scan
engine but the points and groups changes; with no spot on the point the other points, the converter and the spot unit are
left alone and the port receives the answer only. -/
def Obligations.ReleasePointApplied : Prop :=
  ∀ (s : State) (h : Held) (p : PointId), s.betweenFrames = true → s.Awaits h (.releasePoint p) →
    ∃ t, exec .releasePoint s = .next t ∧
      t.point p = { s.point p with
        state := .disabled, calPhase := .none, calStep := 0, armedReseed := false, armedRecal := false,
        seedPending := false, faultCause := .none, spotBusy := false } ∧
      (s.out.entryAfter = none → s.out.view[p] = (s.point p).state → t.out.view[p] = .disabled) ∧
      t.out = (if (s.point p).state = .disabled then s.out else s.out.report p .disabled) ∧
      t.eng = { s.eng with points := t.eng.points, groups := t.eng.groups } ∧
      (∀ (i : Fin 4) (q : PointId), inSet t.eng.groups[i].members q = (inSet s.eng.groups[i].members q && decide (q ≠ p))) ∧
      (∀ i : Fin 4, inSet s.eng.groups[i].members p = true → s.eng.groups[i].reference = some p →
        t.eng.groups[i].reference = none) ∧
      (∀ i : Fin 4, s.eng.groups[i].reference ≠ some p → t.eng.groups[i].reference = s.eng.groups[i].reference) ∧
      (∀ i : Fin 4, t.eng.groups[i].weight = s.eng.groups[i].weight ∧ t.eng.groups[i].halt = s.eng.groups[i].halt) ∧
      t.jrn = s.jrn ∧ t.mem = s.mem ∧ t.atn = s.atn ∧ t.ctl = s.ctl ∧ t.mir = s.mir ∧
      t.wk = { s.wk with state := .closingResult h { code := .done, value := 0, params := [] } } ∧
      ((s.point p).spotBusy = false → t.arb = s.arb ∧ t.spt = s.spt ∧ (∀ q : PointId, q ≠ p → t.point q = s.point q) ∧
        t.port = s.port ++ [{ kind := .resultWrite, addr := h.addr + 8, data := [ofHalves (blockHalf h.block 8) 0, 0] }] ∧
        t.tick = s.tick)

/-- The orders that end a held spot (R53, R154): the stop order with no frame in progress, and a CONFIG_POINT or
RELEASE_POINT applied to its point. A QUEUED spot is withdrawn and ends ABORTED at once, a CONVERTING one when its
sub-conversion completes unless an earlier order stands, a CLOSING one keeps its code. No other point is touched, but for the
spot-busy mark of the point whose QUEUED spot ends. (Byte 7 of the status word is written zero: log entry 15; the order of the
units in the stop order: log entry 13.) -/
def Obligations.OrdersEndSpot : Prop :=
  (∀ (c : Instr) (data : Word) (s : State), controlData c = some data → s.ctl.resetHeld = false → Control.reset data = false →
    Control.run data = false → s.ctl.run = true → s.ctl.op = .running → s.eng.frameState = .waiting →
    ∃ t, exec c s = .next t ∧
      (∀ h, s.spt.state = .queued h → t.spt.state = .closing h .aborted ∧ t.arb.spotWaits = false ∧
        (∀ q : PointId, t.point q = if q = h.point then { s.point q with spotBusy := false } else s.point q) ∧
        t.spt.writes = s.spt.writes ++
          [{ kind := .result, addr := h.addr + 8, data := [ofHalves h.tag 10, 0] },
           { kind := .closed, addr := h.addr + 4, data := [ofBytes 4 14 h.flags 0] }]) ∧
      ((∀ h, s.spt.state ≠ .queued h) → ∀ q : PointId, t.point q = s.point q) ∧
      (∀ h sums, s.spt.state = .converting h sums none → t.spt = { s.spt with state := .converting h sums (some .aborted) } ∧
        t.arb = s.arb) ∧
      (∀ h sums code, s.spt.state = .converting h sums (some code) → t.spt = s.spt ∧ t.arb = s.arb) ∧
      (∀ h code, s.spt.state = .closing h code → t.spt = s.spt) ∧
      (s.spt.state = .empty → t.spt = s.spt)) ∧
  (∀ (s : State) (h : Held) (p : PointId) (c : Instr), s.betweenFrames = true →
    (c = .releasePoint ∧ s.Awaits h (.releasePoint p) ∨ ∃ cfg, c = .configPoint ∧ s.Awaits h (.configPoint p cfg)) →
    (s.point p).spotBusy = true → ∃ t, exec c s = .next t ∧ (t.point p).spotBusy = false ∧
      ((∀ k, s.spt.state ≠ .queued k) → ∀ q : PointId, q ≠ p → t.point q = s.point q) ∧
      (∀ k, s.spt.state = .queued k → t.spt.state = .closing k .aborted ∧ t.arb = { s.arb with spotWaits := false } ∧
        (∀ q : PointId, q ≠ p → t.point q = if q = k.point then { s.point q with spotBusy := false } else s.point q) ∧
        t.spt.writes = s.spt.writes ++
          [{ kind := .result, addr := k.addr + 8, data := [ofHalves k.tag 10, 0] },
           { kind := .closed, addr := k.addr + 4, data := [ofBytes 4 14 k.flags 0] }]) ∧
      (∀ k sums, s.spt.state = .converting k sums none →
        t.spt = { s.spt with state := .converting k sums (some .aborted) } ∧ t.arb = s.arb) ∧
      (∀ k sums code, s.spt.state = .converting k sums (some code) → t.spt = s.spt ∧ t.arb = s.arb) ∧
      (∀ k code, s.spt.state = .closing k code → t.spt = s.spt ∧ t.arb = s.arb))

/-- CONFIG_GROUP applied (R99, R100): refused when a member belongs to another group, else the record is replaced
whole, cleared for an empty set; no point record changes. -/
def Obligations.ConfigGroupApplied : Prop :=
  ∀ (s : State) (h : Held) (i : Fin 4) (g : Group), s.betweenFrames = true → s.Awaits h (.configGroup i g) →
    ((∃ (j : Fin 4) (p : PointId), j ≠ i ∧ inSet s.eng.groups[j].members p = true ∧ inSet g.members p = true) →
      exec .configGroup s = .next (answer h { code := .groupConflict, value := 0, params := [] } s)) ∧
    ((∀ (j : Fin 4) (p : PointId), j ≠ i → inSet s.eng.groups[j].members p = true → inSet g.members p = false) →
      ∀ (n : Nat) (g' : Group), n = ((List.finRange 32).filter fun p => inSet g.members p).length →
        g' = (if g.members = 0 then { members := 0, reference := none, weight := 0, halt := false } else g) →
        exec .configGroup s = .next (answer h { code := .done, value := BitVec.ofNat 32 n, params := [] }
          (s.setEng { s.eng with groups := s.eng.groups.set i.val g' i.isLt })))

/-- RECALIBRATE and RESEED applied (R69, R93): which points of the set are armed, and how many are then armed. -/
def Obligations.ArmRequestsApplied : Prop :=
  ∀ (s : State) (h : Held) (set : PointSet), s.betweenFrames = true →
    (s.Awaits h (.recalibrate set) → ∃ points : Vector Point 32,
      (∀ n : Nat, n = ((List.finRange 32).filter fun p => inSet set p && points[p].armedRecal).length →
        exec .recalibrate s = .next (answer h { code := .done, value := BitVec.ofNat 32 n, params := [] }
          (s.setEng { s.eng with points := points }))) ∧
      ∀ p : PointId, points[p] = if inSet set p = true ∧ (s.point p).state ≠ .disabled ∧ (s.point p).state ≠ .calibrating
        then { s.point p with armedRecal := true } else s.point p) ∧
    (s.Awaits h (.reseed set) → ∃ points : Vector Point 32,
      (∀ n : Nat, n = ((List.finRange 32).filter fun p => inSet set p && points[p].armedReseed).length →
        exec .reseed s = .next (answer h { code := .done, value := BitVec.ofNat 32 n, params := [] }
          (s.setEng { s.eng with points := points }))) ∧
      ∀ p : PointId, points[p] =
        if inSet set p = true ∧ ((s.point p).state = .idle ∨ (s.point p).state = .entering ∨ (s.point p).state = .engaged ∨
            (s.point p).state = .leaving)
        then { s.point p with armedReseed := true } else s.point p)

/-- SNAPSHOT applied (R156, R157): one record a point of the set in ascending order, at consecutive 32-byte places,
copied in this one event; an empty set is answered 0 at once. A record's layout and its group index are those of R157, R97
and 13. -/
def Obligations.SnapshotApplied : Prop :=
  SnapshotLayout ∧
  ∀ (s : State) (h : Held) (buffer : Word) (set : PointSet) (ps : List PointId), s.betweenFrames = true →
    s.Awaits h (.snapshot buffer set) → ps = (List.finRange 32).filter (fun p => inSet set p) →
    (ps = [] → exec .snapshot s = .next (answer h { code := .done, value := 0, params := [] } s)) ∧
    (ps ≠ [] → ∃ t, exec .snapshot s = .next t ∧
      t.wk = { s.wk with state := .awaiting h .applied } ∧ t.eng = s.eng ∧ t.mem = s.mem ∧ t.jrn = s.jrn ∧ t.atn = s.atn ∧
      t.spt.state = s.spt.state ∧ t.spt.snapshot = some { total := ps.length, left := ps.length } ∧
      ∃ new : List SpotWrite, t.spt.writes = s.spt.writes ++ new ∧ new.length = ps.length ∧
        ∀ (i : Nat) (p : PointId), ps[i]? = some p → new[i]? = some
          { kind := .snapshotRecord, addr := buffer + BitVec.ofNat 32 (32 * i)
            data := snapshotWords p (s.point p) (groupOf s.eng.groups p) })

/-- SET_TIMING applied (R122): the four settings, the quiet count, the rate when drowsy-after is 0, and linger to the
journal unit, the frame timer not restarted. MARK applied (R143): the slot is armed with the block's tag and address, or
keeps its mark and the request is refused. -/
def Obligations.TimingAndMarkApplied : Prop :=
  (∀ (s : State) (h : Held) (t : Timing), s.betweenFrames = true → s.Awaits h (.setTiming t) →
    exec .setTiming s = .next (answer h { code := .done, value := 0, params := [] }
      ((s.setEng { s.eng with timing := t, quiet := 0, rate := if t.drowsyAfter = 0 then .brisk else s.eng.rate }).setJrn
        { s.jrn with linger := t.linger }))) ∧
  (∀ (s : State) (h : Held) (tag : Half), s.betweenFrames = true → s.Awaits h (.mark tag) →
    (s.eng.mark = none → exec .mark s = .next (answer h { code := .done, value := 0, params := [] }
      (s.setEng { s.eng with mark := some { tag := tag, addr := h.addr } }))) ∧
    (∀ m, s.eng.mark = some m → exec .mark s = .next (answer h { code := .markBusy, value := 0, params := [] } s)))

/-! ### SPOT (R32, R149 to R154) -/

/-- The hand-off of a SPOT (R32, R34, R150, R153): refused by the point's state or in STOPPING, accepted by an EMPTY
spot unit, else the held spot is ended and the walker waits: a QUEUED spot at once, result SUPERSEDED with value 0 and CLOSED
joining the write list, a CONVERTING one when its sub-conversion completes. The other points and the other units are left
alone. (That STOPPING asks nothing of the point is log entry 14; byte 7 of the status word is written zero: log entry 15.) -/
def Obligations.SpotHandedOver : Prop :=
  ∀ (s : State) (h : Held) (p : PointId) (m : Nat), s.Working h (.spot p m) →
    (s.ctl.op = .stopping → exec .spot s = .next (answer h { code := .aborted, value := 0, params := [] } s)) ∧
    (s.ctl.op ≠ .stopping → (s.point p).state = .disabled →
      exec .spot s = .next (answer h { code := .pointDisabled, value := 0, params := [] } s)) ∧
    (s.ctl.op ≠ .stopping → (s.point p).state = .calibrating →
      exec .spot s = .next (answer h { code := .pointBusy, value := 0, params := [] } s)) ∧
    (s.ctl.op ≠ .stopping → (s.point p).state ≠ .disabled → (s.point p).state ≠ .calibrating →
      (s.spt.state = .empty → ∃ t, exec .spot s = .next t ∧
        t.point p = { s.point p with spotBusy := true } ∧ (∀ q : PointId, q ≠ p → t.point q = s.point q) ∧
        t.wk = { s.wk with state := .fetchLink, anchor := .block h.addr } ∧
        t.port = s.port ++ [{ kind := .linkRead, addr := h.addr, data := [] }] ∧
        t.eng = { s.eng with points := t.eng.points } ∧ t.jrn = s.jrn ∧ t.mir = s.mir ∧ t.out = s.out ∧ t.atn = s.atn ∧
        t.mem = s.mem ∧ t.ctl = s.ctl ∧
        ∀ k : SpotHeld,
          k = { addr := h.addr, point := p, multiplier := m, flags := blockByte h.block 6, tag := blockHalf h.block 8 } →
          (s.arb.grant = .free →
            t.arb = { s.arb with grant := .spot ⟨(s.point p).cfg.integration, (s.point p).tuning⟩, spotWaits := false } ∧
            t.spt = { s.spt with state := .converting k ⟨0, 0, 0, 0, 0⟩ none }) ∧
          (s.arb.grant ≠ .free → t.arb = { s.arb with spotWaits := true } ∧ t.spt = { s.spt with state := .queued k })) ∧
      (s.spt.state ≠ .empty → ∃ t, exec .spot s = .next t ∧ t.wk = { s.wk with state := .workingSpot h } ∧
        t.eng = { s.eng with points := t.eng.points } ∧ t.jrn = s.jrn ∧ t.mir = s.mir ∧ t.out = s.out ∧ t.atn = s.atn ∧
        t.mem = s.mem ∧ t.ctl = s.ctl ∧
        (∀ k, s.spt.state = .queued k →
          t.spt = { s.spt with
            state := .closing k .superseded
            writes := s.spt.writes ++
              [{ kind := .result, addr := k.addr + 8, data := [ofHalves k.tag 9, 0] },
               { kind := .closed, addr := k.addr + 4, data := [ofBytes 4 14 k.flags 0] }] } ∧
          t.arb = { s.arb with spotWaits := false } ∧ t.point k.point = { s.point k.point with spotBusy := false } ∧
          ∀ q : PointId, q ≠ k.point → t.point q = s.point q) ∧
        (∀ k sums, s.spt.state = .converting k sums none →
          t.spt = { s.spt with state := .converting k sums (some .superseded) } ∧ t.arb = s.arb ∧ t.eng = s.eng ∧
            t.port = s.port) ∧
        (∀ k sums code, s.spt.state = .converting k sums (some code) →
          t.spt = s.spt ∧ t.arb = s.arb ∧ t.eng = s.eng ∧ t.port = s.port) ∧
        (∀ k code, s.spt.state = .closing k code → t.spt = s.spt ∧ t.arb = s.arb ∧ t.eng = s.eng ∧ t.port = s.port)))

/-! ### Timers -/

/-- An expiry of the frame timer that begins no frame: with the timer stopped there is none (R109, log entry 3);
inside a frame it marks a start pending or merges (R113); with no room in the pool the frame is skipped (R116, R132,
R138, R5, R22), for the reservation of R114. (The order of the accesses is log entry 9; when the image captured replaces one
already issued: log entry 27. The operand, the expiries inside the ends of frames, has no part here: log entry 28.) -/
def Obligations.ExpiryWithoutFrame : Prop :=
  (∀ e : ScanEngine, e.reservation = 16 +
    16 * ((List.finRange 32).filter fun p => (e.points[p]).enabled && !(e.points[p]).cfg.verbose).length +
    32 * ((List.finRange 32).filter fun p => (e.points[p]).enabled && (e.points[p]).cfg.verbose).length +
    (if e.mark.isSome then 16 else 0)) ∧
  ∀ (s : State) (ends : List EndExpiries),
    (s.eng.frameTimer = none → exec (.frameTimerExpiry ends) s = .next s) ∧
    ∀ v : Nat, s.eng.frameTimer = some v → ∀ period : Nat,
      period = (match s.eng.rate with
        | .brisk => s.eng.timing.brisk
        | .drowsy => s.eng.timing.drowsy) →
      (s.eng.frameState = .scanning → exec (.frameTimerExpiry ends) s = .next (s.setEng { s.eng with
        frameTimer := some period
        frameNumber := s.eng.frameNumber + 1
        startPending := true
        merged := s.eng.merged + (if s.eng.startPending then 1 else 0) })) ∧
      (s.eng.frameState = .waiting → s.jrn.queue = [] →
        (∀ p, s.jrn.page = some p → 4064 < p.used + s.eng.reservation) → ∃ t x, exec (.frameTimerExpiry ends) s = .next t ∧
          (s.atEvent.setEng { s.eng with frameTimer := some period, frameNumber := s.eng.frameNumber + 1 }).FrameSkipped x ∧
          s.EventEnds x t)

/-- An expiry in WAITING with room in the pool begins a frame (R112, R115): its number; the page with room, or the front
page of the queue opened behind the FULL close of a page without (R132, R128); the GAP record with the skipped count and
after it the MARK record with tag and block address (R118, R131, R144), each written at the bytes used of the page (R130)
and starting the linger timer of a page that held none (R136); and the first slot, or the frame's end at once when no slot
requests a conversion (R119). Which slots convert, an armed recalibrate and the trial bit at the grant are those of R42,
R67 and R59. The expiries that the operand places inside the ends of frames are taken as R119 gives. (The order of the
accesses is log entry 9; the operand, and the count of a start still pending, is log entry 28; the image captured while
one is issued: log entry 27.) -/
def Obligations.ExpiryBeginsFrame : Prop :=
  SlotRules ∧ JournalLayouts ∧
  ∀ (s : State) (ends : List EndExpiries) (v : Nat), s.eng.frameTimer = some v → s.eng.frameState = .waiting → s.HasRoom → ∀ period : Nat,
    period = (match s.eng.rate with
      | .brisk => s.eng.timing.brisk
      | .drowsy => s.eng.timing.drowsy) →
    ∃ t b x, exec (.frameTimerExpiry ends) s = .next t ∧
      (s.atEvent.setEng { s.eng with frameTimer := some period, frameNumber := s.eng.frameNumber + 1 }).FrameBegun b ∧
      (¬ s.NoSlot → x = b) ∧ (s.NoSlot → State.FrameFinishes ends b x) ∧ s.EventEnds x t ∧
      t.mem = s.mem ∧ t.ctl = s.ctl ∧ (ends = [] ∨ ¬ s.NoSlot → t.eng.frameNumber = s.eng.frameNumber + 1) ∧
      (ends = [] ∨ ¬ s.NoSlot → s.eng.startPending = false → s.eng.merged = 0 → t.eng.frameInProgress = s.eng.frameNumber + 1 ∧ t.jrn.starved = false ∧
        t.eng.gap = 0 ∧
        t.jrn.recordSeq = s.jrn.recordSeq + (if s.eng.gap = 0 then 0 else 1) + (if s.eng.mark.isSome then 1 else 0) ∧
        (s.NoSlot → t.eng.frameState = .waiting ∧ t.jrn.frameOpen = false))

/-- The linger timer's expiry (R137): the page is closed LINGER at once, or at the end of the frame that is open.
(With the timer stopped there is no expiry: log entry 3.) -/
def Obligations.LingerExpiryActs : Prop :=
  ∀ s : State,
    (s.jrn.lingerTimer = none → exec .lingerExpiry s = .next s) ∧
    ∀ v : Nat, s.jrn.lingerTimer = some v →
      (s.jrn.frameOpen = true → exec .lingerExpiry s = .next (s.setJrn { s.jrn with
        lingerTimer := none
        closeMark := if s.jrn.closeMark = .flush then .flush else .linger })) ∧
      (s.jrn.frameOpen = false → ∀ p, s.jrn.page = some p → ∃ (j : Journal) (port : List Access),
        exec .lingerExpiry s = .next ((s.setJrn j).setPort port) ∧
        j = { s.jrn with
          page := none
          lingerTimer := none
          closeMark := .none
          writes := s.jrn.writes ++ [{ addr := p.addr, data := pageHeader p (some .linger),
                                       closes := some { sequence := p.sequence, cause := .linger } }] } ∧
        (s.jrn.writes = [] → port = s.port ++ [{ kind := .journalWrite, addr := p.addr, data := pageHeader p (some .linger) }]) ∧
        (s.jrn.writes ≠ [] → port = s.port))

/-! ### Lines and pins -/

/-- Each OUT pin by its line's drive and level (R162); a hardware reset, with RESETn held low after it or not (the operand
is the model's, log entry 5), and a software reset leave every pin high-impedance. What a report does to the lines,
whatever their drive (R160, R161): the view takes the new state, a LINKED line whose link set holds the point takes the
level its link states give over the new view, and every other line is left alone; a report that an entry to FAULTED comes
before is not taken (R166; the model's field that counts the reports before the entry is log entry 29). -/
def Obligations.PinsShowLines : Prop :=
  (∀ (s : State) (n : Fin 8), s.outPin n =
    match (s.out.lines[n]).drive, (s.out.lines[n]).level with
    | .pushPullHigh, true => .high
    | .pushPullHigh, false => .low
    | .openDrainLow, true => .low
    | .openDrainLow, false => .highZ
    | .off, _ => .highZ) ∧
  (∀ (s t : State) (low : Bool) (n : Fin 8), exec (.hardwareReset low) s = .next t → t.outPin n = .highZ) ∧
  (∀ (s t : State) (data : Word) (n : Fin 8), s.ctl.resetHeld = false → Control.reset data = true →
    exec (.softwareReset data) s = .next t → t.outPin n = .highZ) ∧
  ∀ (o o' : OutputUnit) (p : PointId) (st : PointState), o' = o.report p st →
    (o.entryAfter = some 0 → o' = o) ∧
    (o.entryAfter ≠ some 0 → o'.entryAfter = o.entryAfter.map (· - 1) ∧
    o'.view[p] = st ∧ (∀ q : PointId, q ≠ p → o'.view[q] = o.view[q]) ∧
    ∀ (n : Fin 8) (l : Line), l = o.lines[n] →
      (l.owner = .linked → inSet l.linkSet p = true → ∃ level : Bool, o'.lines[n] = { l with level := level } ∧
        (level = true ↔ ∃ q : PointId, inSet l.linkSet q = true ∧
          ((l.linkStates.onEngaged = true ∧ (o'.view[q] = .engaged ∨ o'.view[q] = .leaving)) ∨
            (l.linkStates.onFault = true ∧ o'.view[q] = .fault) ∨
            (l.linkStates.onCalibrating = true ∧ o'.view[q] = .calibrating)))) ∧
      (l.owner = .direct ∨ inSet l.linkSet p = false → o'.lines[n] = l))

/-! ### A slot's measurement -/

/-- A point that is IDLE at step 6 (R79), not vetoed: at or above the threshold it becomes ENGAGED with an ENGAGE record
(enter debounce 0 or 1) or ENTERING with counter 1 and no record (2 or more); below it stays IDLE without a record. The
record's fields are those of R91 and R129, and an urgent point raises TRIP cause ENGAGED with it (R84). -/
def Obligations.IdlePointMoves : Prop :=
  ∀ (p : PointId) (pt : Point) (g : GroupView) (c : Half) (delta : Int), pt.state = .idle → isSaturated c = false →
    pt.armedReseed = false → pt.seedPending = false → g.vetoed = false →
    delta = rawDelta pt.cfg.direction c pt.baseline - g.compensation →
    ((pt.cfg.threshold : Int) ≤ delta → pt.cfg.enterDebounce ≤ 1 →
      (measure p pt g c).pt.state = .engaged ∧ (measure p pt g c).pt.debounce = 0 ∧
      (measure p pt g c).record = some
        { kind := .engage, long := pt.cfg.verbose, who := some (p, .engaged), detail := 0, delta := signedField delta
          count := c, baseline := pt.baseline, tuning := pt.tuning, stuck := 0 } ∧
      (measure p pt g c).trip = (if pt.cfg.urgent then some .engaged else none)) ∧
    ((pt.cfg.threshold : Int) ≤ delta → 2 ≤ pt.cfg.enterDebounce →
      (measure p pt g c).pt.state = .entering ∧ (measure p pt g c).pt.debounce = 1 ∧ (measure p pt g c).record = none ∧
      (measure p pt g c).trip = none) ∧
    (delta < pt.cfg.threshold →
      (measure p pt g c).pt.state = .idle ∧ (measure p pt g c).record = none ∧ (measure p pt g c).trip = none)

/-- A point that is ENGAGED at step 6 (R81); a point that stays engaged is one that its stuck limit does not reseed. The
DISENGAGE record's fields are those of R91 and R129, its baseline the one after the filter; no move raises a cause (R84). -/
def Obligations.EngagedPointMoves : Prop :=
  ∀ (p : PointId) (pt : Point) (g : GroupView) (c : Half) (delta : Int), pt.state = .engaged → isSaturated c = false →
    pt.armedReseed = false → pt.seedPending = false →
    delta = rawDelta pt.cfg.direction c pt.baseline - g.compensation →
    (measure p pt g c).trip = none ∧
    (delta < (pt.cfg.threshold : Int) - pt.cfg.hysteresis → pt.cfg.exitDebounce ≤ 1 →
      (measure p pt g c).pt.state = .idle ∧ (measure p pt g c).pt.debounce = 0 ∧ (measure p pt g c).pt.stuck = 0 ∧
      (measure p pt g c).record = some
        { kind := .disengage, long := pt.cfg.verbose, who := some (p, .idle), detail := 0, delta := signedField delta
          count := c, baseline := (measure p pt g c).pt.baseline, tuning := pt.tuning, stuck := pt.stuck }) ∧
    (pt.cfg.stuckLimit = 0 ∨ pt.stuck + 1 < pt.cfg.stuckLimit →
      (delta < (pt.cfg.threshold : Int) - pt.cfg.hysteresis → 2 ≤ pt.cfg.exitDebounce →
        (measure p pt g c).pt.state = .leaving ∧ (measure p pt g c).pt.debounce = 1 ∧ (measure p pt g c).record = none) ∧
      ((pt.cfg.threshold : Int) - pt.cfg.hysteresis ≤ delta →
        (measure p pt g c).pt.state = .engaged ∧ (measure p pt g c).record = none))

/-- A point between the two states (R80, R82), and the veto on a point that is not engaged (R78, R105). The records' fields
are those of R91 and R129; an urgent point raises TRIP cause ENGAGED when it becomes ENGAGED from ENTERING, and no other
move raises one, the return from LEAVING to ENGAGED included (R84). -/
def Obligations.DebouncedMoves : Prop :=
  ∀ (p : PointId) (pt : Point) (g : GroupView) (c : Half) (delta : Int), isSaturated c = false →
    pt.armedReseed = false → pt.seedPending = false →
    delta = rawDelta pt.cfg.direction c pt.baseline - g.compensation →
    (pt.state = .entering → g.vetoed = false →
      ((pt.cfg.threshold : Int) ≤ delta → pt.debounce + 1 = pt.cfg.enterDebounce →
        (measure p pt g c).pt.state = .engaged ∧ (measure p pt g c).pt.debounce = 0 ∧
        (measure p pt g c).record = some
          { kind := .engage, long := pt.cfg.verbose, who := some (p, .engaged), detail := 0, delta := signedField delta
            count := c, baseline := pt.baseline, tuning := pt.tuning, stuck := 0 } ∧
        (measure p pt g c).trip = (if pt.cfg.urgent then some .engaged else none)) ∧
      ((pt.cfg.threshold : Int) ≤ delta → pt.debounce + 1 < pt.cfg.enterDebounce →
        (measure p pt g c).pt.state = .entering ∧ (measure p pt g c).pt.debounce = pt.debounce + 1 ∧
          (measure p pt g c).record = none ∧ (measure p pt g c).trip = none) ∧
      (delta < pt.cfg.threshold →
        (measure p pt g c).pt.state = .idle ∧ (measure p pt g c).pt.debounce = 0 ∧ (measure p pt g c).record = none ∧
          (measure p pt g c).trip = none)) ∧
    (pt.state = .leaving →
      (measure p pt g c).trip = none ∧
      (delta < (pt.cfg.threshold : Int) - pt.cfg.hysteresis → pt.debounce + 1 = pt.cfg.exitDebounce →
        (measure p pt g c).pt.state = .idle ∧ (measure p pt g c).pt.debounce = 0 ∧ (measure p pt g c).pt.stuck = 0 ∧
        (measure p pt g c).record = some
          { kind := .disengage, long := pt.cfg.verbose, who := some (p, .idle), detail := 0, delta := signedField delta
            count := c, baseline := (measure p pt g c).pt.baseline, tuning := pt.tuning, stuck := pt.stuck }) ∧
      (pt.cfg.stuckLimit = 0 ∨ pt.stuck + 1 < pt.cfg.stuckLimit →
        (delta < (pt.cfg.threshold : Int) - pt.cfg.hysteresis → pt.debounce + 1 < pt.cfg.exitDebounce →
          (measure p pt g c).pt.state = .leaving ∧ (measure p pt g c).pt.debounce = pt.debounce + 1 ∧
            (measure p pt g c).record = none) ∧
        ((pt.cfg.threshold : Int) - pt.cfg.hysteresis ≤ delta →
          (measure p pt g c).pt.state = .engaged ∧ (measure p pt g c).pt.debounce = 0 ∧ (measure p pt g c).record = none))) ∧
    (pt.state = .idle ∨ pt.state = .entering → g.vetoed = true →
      (measure p pt g c).pt.state = .idle ∧ (measure p pt g c).pt.debounce = 0 ∧ (measure p pt g c).record = none ∧
        (measure p pt g c).trip = none)

/-- What a point's group brings to its measurement (R97, R101, R103, R104, R105): halt, compensation and veto, from
the states and last raw deltas as they stand; a point in no group takes nothing. -/
def Obligations.GroupTakesPart : Prop :=
  ∀ (points : Vector Point 32) (groups : Vector Group 4) (p : PointId), GroupsOk groups →
    ((∀ i : Fin 4, inSet groups[i].members p = false) →
      groupView points groups p = { compensation := 0, vetoed := false, halted := false }) ∧
    ∀ i : Fin 4, inSet groups[i].members p = true →
      ((groupView points groups p).halted = true ↔ groups[i].halt = true ∧
        ∃ q : PointId, q ≠ p ∧ inSet groups[i].members q = true ∧
          (points[q].state = .engaged ∨ points[q].state = .leaving)) ∧
      ((groupView points groups p).vetoed = true ↔ ∃ r : PointId, groups[i].reference = some r ∧ r ≠ p ∧
        (points[r].state = .engaged ∨ points[r].state = .leaving)) ∧
      (∀ r : PointId, groups[i].reference = some r → r ≠ p → points[p].cfg.direction ≠ .either →
        points[r].state.detecting = true →
        (groupView points groups p).compensation = Int.tdiv (groups[i].weight * points[r].lastRawDelta) 256) ∧
      ((groups[i].reference = none ∨ groups[i].reference = some p ∨ points[p].cfg.direction = .either ∨
        ∃ r : PointId, groups[i].reference = some r ∧ points[r].state.detecting = false) →
        (groupView points groups p).compensation = 0)

/-- The deltas and the baseline of a measurement that reaches step 4 and is not reseeded at step 8 (R76, R77, R85,
R86), and that a filter move never carries the baseline past the count (R87). Only a point that is ENGAGED or LEAVING before
and after step 6 can be reseeded there (R88). Baselines are in units of 1/256. -/
def Obligations.DeltaAndBaseline : Prop :=
  (∀ (p : PointId) (pt : Point) (g : GroupView) (c : Half) (q : Point), pt.state.detecting = true → isSaturated c = false →
    pt.armedReseed = false → pt.seedPending = false → pt.stuck ≤ 65535 →
    (pt.StaysEngaged (rawDelta pt.cfg.direction c pt.baseline - g.compensation) →
      pt.cfg.stuckLimit = 0 ∨ min (pt.stuck + 1) 65535 ≠ pt.cfg.stuckLimit) →
    q = (measure p pt g c).pt →
    q.lastCount = c ∧
    q.lastRawDelta = (match pt.cfg.direction with
      | .rising => (c.toNat : Int) - (pt.baseline / 256 : Nat)
      | .falling => (pt.baseline / 256 : Nat) - (c.toNat : Int)
      | .either => (((c.toNat : Int) - (pt.baseline / 256 : Nat)).natAbs : Int)) ∧
    q.lastDelta = q.lastRawDelta - g.compensation ∧
    (q.state ≠ .idle ∨ g.halted = true → q.baseline = pt.baseline) ∧
    (q.state = .idle → g.halted = false → ∀ b : Nat,
      b = (if pt.cfg.direction = .rising ∧ 256 * c.toNat < pt.baseline ∨
              pt.cfg.direction = .falling ∧ pt.baseline < 256 * c.toNat then pt.cfg.fastBeta else pt.cfg.slowBeta) →
      (q.baseline : Int) = pt.baseline + Int.tdiv (256 * (c.toNat : Int) - pt.baseline) (2 ^ b))) ∧
  ∀ (cfg : Settings) (c : Half) (baseline : Nat),
    (baseline ≤ 256 * c.toNat → baseline ≤ filtered cfg c baseline ∧ filtered cfg c baseline ≤ 256 * c.toNat) ∧
    (256 * c.toNat ≤ baseline → 256 * c.toNat ≤ filtered cfg c baseline ∧ filtered cfg c baseline ≤ baseline)

/-- The stuck limit (R88, R89, R90, R68): the counter of a point measured as engaged and left engaged, and the reseed
when it reaches a limit that is not 0, with its RESEED record (R91, R129). -/
def Obligations.StuckLimitReseeds : Prop :=
  ∀ (p : PointId) (pt : Point) (g : GroupView) (c : Half) (delta : Int), isSaturated c = false → pt.armedReseed = false →
    pt.seedPending = false → delta = rawDelta pt.cfg.direction c pt.baseline - g.compensation → pt.StaysEngaged delta →
    ((pt.cfg.stuckLimit = 0 ∨ min (pt.stuck + 1) 65535 ≠ pt.cfg.stuckLimit) → pt.stuck ≤ 65535 →
      (measure p pt g c).pt.stuck = min (pt.stuck + 1) 65535 ∧ (measure p pt g c).record = none ∧
        (measure p pt g c).trip = none ∧ (measure p pt g c).pt.state.isEngaged = true) ∧
    (pt.cfg.stuckLimit ≠ 0 → pt.stuck + 1 = pt.cfg.stuckLimit → pt.stuck < 65535 → ∀ follows : Bool,
      follows = (pt.cfg.autoRecalibrate && decide (pt.cfg.calBand < ((c.toNat : Int) - pt.cfg.calTarget).natAbs)) →
      (measure p pt g c).pt = { pt with
        lastCount := c, baseline := 256 * c.toNat, state := .idle, debounce := 0, stuck := 0, lastRawDelta := 0,
        lastDelta := 0, armedRecal := pt.armedRecal || follows } ∧
      (measure p pt g c).trip = none ∧
      (measure p pt g c).record = some
        { kind := .reseed, long := pt.cfg.verbose, who := some (p, .idle), detail := if follows then 3 else 1
          delta := signedField delta, count := c, baseline := 256 * c.toNat, tuning := pt.tuning, stuck := pt.cfg.stuckLimit })

/-- The three steps that end a measurement early: saturation (R74), an armed reseed (R75), a pending seed (R51), with the
fields of their records (R91, R129). -/
def Obligations.MeasurementEndsEarly : Prop :=
  ∀ (p : PointId) (pt : Point) (g : GroupView) (c : Half), pt.state.detecting = true →
    ((c = 0 ∨ c = 0xFFFF) →
      (measure p pt g c).pt = { pt with
        lastCount := c, state := .fault, faultCause := .saturated, debounce := 0, stuck := 0, lastRawDelta := 0,
        lastDelta := 0, armedReseed := false, seedPending := false } ∧
      (measure p pt g c).trip = some .pointFault ∧
      (measure p pt g c).record = some
        { kind := .saturated, long := pt.cfg.verbose, who := some (p, .fault), detail := 0, delta := 0, count := c
          baseline := pt.baseline, tuning := pt.tuning, stuck := pt.stuck }) ∧
    (c ≠ 0 → c ≠ 0xFFFF → pt.armedReseed = true →
      (measure p pt g c).pt = { pt with
        lastCount := c, baseline := 256 * c.toNat, state := .idle, debounce := 0, stuck := 0, lastRawDelta := 0,
        lastDelta := 0, armedReseed := false, seedPending := false } ∧
      (measure p pt g c).trip = none ∧
      (measure p pt g c).record = some
        { kind := .reseed, long := pt.cfg.verbose, who := some (p, .idle), detail := 0, delta := 0, count := c
          baseline := 256 * c.toNat, tuning := pt.tuning, stuck := pt.stuck }) ∧
    (c ≠ 0 → c ≠ 0xFFFF → pt.armedReseed = false → pt.seedPending = true →
      measure p pt g c =
        { pt := { pt with lastCount := c, baseline := 256 * c.toNat, seedPending := false }, record := none, trip := none })

/-- Calibration steps (R58, R60, R62, R63, R64, R65): a search step's trial bit, the next position and the CAL_START
record; the outcome of the verification and its record. The records are long for a verbose point (R129). -/
def Obligations.CalibrationStepDecides : Prop :=
  ∀ (p : PointId) (pt : Point) (g : GroupView) (c : Half), pt.state = .calibrating →
    (pt.calPhase = .coarse ∨ pt.calPhase = .fine ∨ pt.calPhase = .offset → ∃ (t : Tuning) (ph : CalPhase) (n : Nat),
      (measure p pt g c).pt = { pt with lastCount := c, tuning := t, calPhase := ph, calStep := n } ∧
      (measure p pt g c).trip = none ∧
      (pt.calPhase ≠ .coarse → t.coarse = pt.tuning.coarse) ∧ (pt.calPhase ≠ .fine → t.fine = pt.tuning.fine) ∧
      (pt.calPhase ≠ .offset → t.offset = pt.tuning.offset) ∧
      (pt.calPhase = .coarse → ∀ i : Nat, i < 4 → t.coarse.getLsbD i =
        (pt.tuning.coarse.getLsbD i && (decide (i ≠ pt.calStep) || decide (c.toNat ≤ pt.cfg.calTarget)))) ∧
      (pt.calPhase = .fine → ∀ i : Nat, i < 5 → t.fine.getLsbD i =
        (pt.tuning.fine.getLsbD i && (decide (i ≠ pt.calStep) || decide (c.toNat ≤ pt.cfg.calTarget)))) ∧
      (pt.calPhase = .offset → ∀ i : Nat, i < 10 → t.offset.getLsbD i =
        (pt.tuning.offset.getLsbD i && (decide (i ≠ pt.calStep) || decide (pt.cfg.calTarget ≤ c.toNat)))) ∧
      (pt.calStep ≠ 0 → ph = pt.calPhase ∧ n + 1 = pt.calStep) ∧
      (pt.calStep = 0 → (pt.calPhase = .coarse → ph = .fine ∧ n = 4) ∧ (pt.calPhase = .fine → ph = .offset ∧ n = 9) ∧
        (pt.calPhase = .offset → ph = .verify ∧ n = 0)) ∧
      ((pt.cfg.calMode = .full ∧ pt.calPhase = .coarse ∧ pt.calStep = 3 ∨
        pt.cfg.calMode ≠ .full ∧ pt.calPhase = .offset ∧ pt.calStep = 9) →
        (measure p pt g c).record = some
          { kind := .calStart, long := pt.cfg.verbose, who := some (p, .calibrating)
            detail := if pt.cfg.calMode = .full then 1 else 2, delta := 0, count := c, baseline := pt.baseline, tuning := t
            stuck := 0 }) ∧
      (¬ (pt.cfg.calMode = .full ∧ pt.calPhase = .coarse ∧ pt.calStep = 3 ∨
        pt.cfg.calMode ≠ .full ∧ pt.calPhase = .offset ∧ pt.calStep = 9) → (measure p pt g c).record = none)) ∧
    (pt.calPhase = .verify → ∀ d : Int, d = (c.toNat : Int) - pt.cfg.calTarget →
      (c ≠ 0 → c ≠ 0xFFFF → d.natAbs ≤ pt.cfg.calBand →
        (measure p pt g c).pt = { pt with
          lastCount := c, baseline := 256 * c.toNat, state := .idle, calPhase := .none, calStep := 0, faultCause := .none,
          debounce := 0, stuck := 0, lastRawDelta := 0, lastDelta := 0 } ∧
        (measure p pt g c).trip = none ∧
        (measure p pt g c).record = some
          { kind := .calDone, long := pt.cfg.verbose, who := some (p, .idle), detail := if pt.cfg.calMode = .full then 1 else 2
            delta := signedField d, count := c, baseline := 256 * c.toNat, tuning := pt.tuning, stuck := 0 }) ∧
      (c = 0 ∨ c = 0xFFFF ∨ pt.cfg.calBand < d.natAbs →
        (measure p pt g c).pt = { pt with
          lastCount := c, state := .fault, faultCause := .calFail, calPhase := .none, calStep := 0 } ∧
        (measure p pt g c).trip = some .pointFault ∧
        (measure p pt g c).record = some
          { kind := .calFail, long := pt.cfg.verbose, who := some (p, .fault), detail := if pt.cfg.calMode = .full then 1 else 2
            delta := signedField d, count := c, baseline := pt.baseline, tuning := pt.tuning, stuck := 0 }))

/-- Saturated counts in a calibration (R61): ordinary in a search step's comparison, which never leads to FAULT, and a
failure at the VERIFY step. -/
def Obligations.SaturatedSearchCount : Prop :=
  ∀ (p : PointId) (pt : Point) (g : GroupView), pt.state = .calibrating → 64 ≤ pt.cfg.calTarget → pt.cfg.calTarget ≤ 60000 →
    (pt.calPhase = .coarse → pt.calStep < 4 →
      (measure p pt g 0).pt.tuning = pt.tuning ∧ (measure p pt g 0xFFFF).pt.tuning.coarse.getLsbD pt.calStep = false) ∧
    (pt.calPhase = .fine → pt.calStep < 5 →
      (measure p pt g 0).pt.tuning = pt.tuning ∧ (measure p pt g 0xFFFF).pt.tuning.fine.getLsbD pt.calStep = false) ∧
    (pt.calPhase = .offset → pt.calStep < 10 →
      (measure p pt g 0).pt.tuning.offset.getLsbD pt.calStep = false ∧ (measure p pt g 0xFFFF).pt.tuning = pt.tuning) ∧
    (pt.calPhase ≠ .verify → ∀ c : Half, (measure p pt g c).pt.state = .calibrating) ∧
    (pt.calPhase = .verify → ∀ c : Half, c = 0 ∨ c = 0xFFFF →
      (measure p pt g c).pt.state = .fault ∧ (measure p pt g c).pt.faultCause = .calFail)

/-! ### Conversions -/

/-- A scan conversion completes in a frame with a later slot to run (R42, R43, R47, R118): the point's measurement, its
report, its record and its cause, then that slot's own conversion, behind a waiting spot. The record joins the journal
unit's write list at the page's bytes used, in two accesses where it crosses a 64-byte block, with the next record
sequence, and starts the linger timer of a page that held none (R128, R130, R8, R136); its layout is that of 13. An armed
recalibrate is taken and a calibrating point prepared as R67 and R59 give. (The order of the events at one completion is
log entry 12, that of the accesses log entry 9; the operand, the expiries inside the ends of frames, has no part here: log
entry 28.) -/
def Obligations.ScanConversionThenNextSlot : Prop :=
  SlotRules ∧ JournalLayouts ∧
  ∀ (s : State) (v : Conversion) (p q : PointId) (c : Half) (ends : List EndExpiries) (m : Measured), s.arb.grant = .scan v → s.arb.scanWaits = false →
    s.eng.slot = some p → s.eng.frameState = .scanning → s.NextSlot p q →
    m = measure p (s.point p) (groupView s.eng.points s.eng.groups p) c →
    ∃ t d x, exec (.scanConversionComplete c ends) s = .next t ∧ s.atEvent.SlotDone p m d ∧ d.SlotBegun q x ∧ s.EventEnds x t ∧
      t.point p = m.pt ∧ (s.out.entryAfter = none → s.ViewOk → t.out.view[p] = m.pt.state) ∧
      (∀ r : PointId, r ≠ p → r ≠ q → t.point r = s.point r) ∧
      (m.record = none → t.jrn = s.jrn) ∧
      (∀ r, m.record = some r → s.jrn.page ≠ none → t.jrn.recordSeq = s.jrn.recordSeq + 1)

/-- A scan conversion completes with no later slot to run (R42, R47). In SCANNING the frame ends (R119, R120): the quiet
judgment, the journal unit's part by R134's table, the merged count, the image, the frame boundary, the boundary request
that waits applied (R121), and a pending start admitted or skipped (R113, R115, R116). In CUTTING it ends as a cut frame
(R123), with the same table and the waiting request applied. The expiries that the operand places between the steps of a
frame's end are taken as R119 gives: by R113 before step 6, by R112 after it, behind a request that has waited for the frame's
end (R31). A waiting spot is granted the converter first.
(The order of the accesses is log entry 9; the order of the slot's work, the release and the frame's end is log entry 12; the
operand, and what becomes of a merged expiry and of a start still pending, is log entry 28; when the image captured replaces one already
issued: log entry 27.) -/
def Obligations.ScanConversionEndsFrame : Prop :=
  ∀ (s : State) (v : Conversion) (p : PointId) (c : Half) (ends : List EndExpiries) (m : Measured), s.arb.grant = .scan v → s.arb.scanWaits = false →
    s.eng.slot = some p → m = measure p (s.point p) (groupView s.eng.points s.eng.groups p) c →
    (s.eng.frameState = .scanning → (∀ r : PointId, p < r → (s.point r).slotConverts = false) →
      ∃ t d x, exec (.scanConversionComplete c ends) s = .next t ∧ s.atEvent.SlotDone p m d ∧
        State.FrameFinishes ends (d.setEng { d.eng with slot := none }) x ∧ s.EventEnds x t ∧ t.mem = s.mem ∧ t.ctl = s.ctl) ∧
    (s.eng.frameState = .cutting → ∃ t d u x, exec (.scanConversionComplete c ends) s = .next t ∧ s.atEvent.SlotDone p m d ∧
      d.CutEnded u ∧ u.AppliesWaiting x ∧ s.EventEnds x t ∧ t.mem = s.mem ∧ t.ctl = s.ctl)

/-- A sub-conversion of the spot that holds the converter completes (R151, R152, R153, R53): the sums, the next
sub-conversion, or the end of the spot with the converter released to a waiting slot, whose point is prepared at that grant
(R59). No other point is touched. (Byte 7 of the status word is written zero: log entry 15.) -/
def Obligations.SpotSubconversionCompletes : Prop :=
  SlotRules ∧
  ∀ (s : State) (v : Conversion) (k : SpotHeld) (sums : SpotSums) (c : Half), s.arb.grant = .spot v → s.arb.spotWaits = false →
    (s.spt.state = .converting k sums none → sums.done + 1 < k.multiplier → ∃ sums' : SpotSums,
      exec (.spotSubconversionComplete c) s = .next
        ((s.setArb { s.arb with grant := .spot ⟨(s.point k.point).cfg.integration, (s.point k.point).tuning⟩ }).setSpt
          { s.spt with state := .converting k sums' none }) ∧
      sums'.done = sums.done + 1 ∧ sums'.sum = sums.sum + c.toNat ∧
      sums'.saturated = sums.saturated + (if c = 0 ∨ c = 0xFFFF then 1 else 0) ∧
      (sums.done = 0 → sums'.least = c ∧ sums'.greatest = c) ∧
      (sums.done ≠ 0 → sums'.least.toNat = min sums.least.toNat c.toNat ∧
        sums'.greatest.toNat = max sums.greatest.toNat c.toNat)) ∧
    ∀ (code : ResultCode) (words : List Word),
      (s.spt.state = .converting k sums (some code) ∧ words = [ofHalves k.tag code.code, 0] ∨
        s.spt.state = .converting k sums none ∧ k.multiplier ≤ sums.done + 1 ∧ code = .done ∧
          ∃ least greatest : Half, (sums.done ≠ 0 → least.toNat = min sums.least.toNat c.toNat ∧
              greatest.toNat = max sums.greatest.toNat c.toNat) ∧ (sums.done = 0 → least = c ∧ greatest = c) ∧
            words = [ofHalves k.tag 0, BitVec.ofNat 32 k.multiplier,
                     BitVec.ofNat 32 ((sums.sum + c.toNat) * 256 / k.multiplier), ofHalves least greatest,
                     ofBytes (BitVec.ofNat 8 (sums.done + 1))
                       (BitVec.ofNat 8 (sums.saturated + (if c = 0 ∨ c = 0xFFFF then 1 else 0))) 0 0]) →
      ∃ t, exec (.spotSubconversionComplete c) s = .next t ∧
        t.spt = { s.spt with
          state := .closing k code
          writes := s.spt.writes ++
            [{ kind := .result, addr := k.addr + 8, data := words },
             { kind := .closed, addr := k.addr + 4, data := [ofBytes 4 14 k.flags 0] }] } ∧
        t.eng = { s.eng with points := t.eng.points } ∧
        t.jrn = s.jrn ∧ t.wk = s.wk ∧ t.mem = s.mem ∧ t.atn = s.atn ∧ t.out = s.out ∧ t.mir = s.mir ∧ t.ctl = s.ctl ∧
        ∀ x : PointId → Point,
          (∀ r : PointId, x r = if r = k.point then { s.point r with spotBusy := false } else s.point r) →
          (s.arb.scanWaits = false → t.arb.Idle ∧ ∀ r : PointId, t.point r = x r) ∧
          (∀ q, s.arb.scanWaits = true → s.eng.slot = some q →
            t.arb = { grant := .scan ⟨(s.point q).cfg.integration, (s.point q).atGrant.tuning⟩, scanWaits := false
                      spotWaits := false } ∧
            t.point q = (x q).atGrant ∧ ∀ r : PointId, r ≠ q → t.point r = x r)

/-! ### The other agents' writes -/

/-- A write of the spot unit completes (R148, R152, R153, R156, R158): the next on its list is issued; a CLOSED write
leaves the unit EMPTY, raises NOTIFY if asked and lets a waiting SPOT in (R150), the other points left alone; the last record
of a snapshot answers it. Journal unit, output unit, mirror writer and control unit are left alone. -/
def Obligations.SpotUnitWritesComplete : Prop :=
  ∀ (s : State) (a : Access) (rest : List Access) (w : SpotWrite) (ws : List SpotWrite), s.port = a :: rest →
    s.spt.writes = w :: ws →
    (a.kind = .spotWrite → w.kind ≠ .closed → ∃ t, exec .spotWriteComplete s = .next t ∧
      t.spt = { s.spt with writes := ws } ∧ t.wk = s.wk ∧ t.atn = s.atn ∧ t.eng = s.eng ∧ t.arb = s.arb ∧ t.jrn = s.jrn ∧
      t.out = s.out ∧ t.mir = s.mir ∧ t.ctl = s.ctl ∧
      t.port = rest ++ (ws.take 1).map fun x => { kind := x.kind.access, addr := x.addr, data := x.data }) ∧
    (a.kind = .spotWrite → w.kind = .closed → ∀ k code, s.spt.state = .closing k code → ∀ atn : Attention,
      atn = (if k.flags.getLsbD 0 then s.atn.raise .notify else s.atn) →
      ((∀ h, s.wk.state ≠ .workingSpot h) → ∃ t, exec .spotWriteComplete s = .next t ∧
        t.spt = { s.spt with state := .empty, writes := ws } ∧ t.atn = atn ∧ t.wk = s.wk ∧ t.eng = s.eng ∧ t.arb = s.arb ∧
        t.jrn = s.jrn ∧ t.out = s.out ∧ t.mir = s.mir ∧ t.ctl = s.ctl) ∧
      (∀ h p m, s.wk.state = .workingSpot h → parse h.block = .ok (.spot p m) → ∃ t, exec .spotWriteComplete s = .next t ∧
        t.atn = atn ∧ t.point p = { s.point p with spotBusy := true } ∧ (∀ q : PointId, q ≠ p → t.point q = s.point q) ∧
        t.eng = { s.eng with points := t.eng.points } ∧ t.jrn = s.jrn ∧ t.out = s.out ∧ t.mir = s.mir ∧ t.ctl = s.ctl ∧
        t.wk = { s.wk with state := .fetchLink, anchor := .block h.addr } ∧ ∀ k' : SpotHeld,
          k' = { addr := h.addr, point := p, multiplier := m, flags := blockByte h.block 6, tag := blockHalf h.block 8 } →
          (s.arb.grant = .free →
            t.arb = { s.arb with grant := .spot ⟨(s.point p).cfg.integration, (s.point p).tuning⟩, spotWaits := false } ∧
            t.spt = { s.spt with state := .converting k' ⟨0, 0, 0, 0, 0⟩ none, writes := ws }) ∧
          (s.arb.grant ≠ .free → t.arb = { s.arb with spotWaits := true } ∧
            t.spt = { s.spt with state := .queued k', writes := ws }))) ∧
    (a.kind = .snapshotWrite → ∀ job, s.spt.snapshot = some job →
      (1 < job.left → ∃ t, exec .snapshotRecordWriteComplete s = .next t ∧
        t.spt = { s.spt with writes := ws, snapshot := some { job with left := job.left - 1 } } ∧ t.wk = s.wk ∧ t.eng = s.eng ∧
        t.arb = s.arb ∧ t.atn = s.atn ∧ t.jrn = s.jrn ∧ t.out = s.out ∧ t.mir = s.mir ∧ t.ctl = s.ctl) ∧
      (job.left ≤ 1 → ∃ t, exec .snapshotRecordWriteComplete s = .next t ∧
        t.spt = { s.spt with writes := ws, snapshot := none } ∧ t.eng = s.eng ∧ t.arb = s.arb ∧ t.atn = s.atn ∧ t.jrn = s.jrn ∧
        t.out = s.out ∧ t.mir = s.mir ∧ t.ctl = s.ctl ∧
        ∀ h, s.wk.state = .awaiting h .applied → t.wk = { s.wk with
          state := .closingResult h { code := .done, value := BitVec.ofNat 32 job.total, params := [] } }))

/-- A write of the journal unit completes (R133, R135, R142): the next on its list is issued; a CLOSED header raises
PAGE_CLOSED and answers the FLUSH_JOURNAL that closed the page. The mirror write completes (R5, R6, R172, R173): STOPPED
is raised for the image of the entry to STOPPED; a waiting image is issued in RUNNING and STOPPED and kept in STOPPING. An
image's layout is that of R4 and 13. -/
def Obligations.JournalAndMirrorWritesComplete : Prop :=
  ImageLayout ∧
  (∀ (s : State) (a : Access) (rest : List Access) (w : JournalWrite) (ws : List JournalWrite), s.port = a :: rest →
    a.kind = .journalWrite → s.jrn.writes = w :: ws → ∃ t, exec .journalWriteComplete s = .next t ∧
      t.jrn = { s.jrn with writes := ws } ∧ t.eng = s.eng ∧ t.spt = s.spt ∧ t.mir = s.mir ∧ t.out = s.out ∧
      (w.closes = none → t.atn = s.atn ∧ t.wk = s.wk ∧
        t.port = rest ++ (ws.take 1).map fun x => { kind := .journalWrite, addr := x.addr, data := x.data }) ∧
      ∀ x, w.closes = some x → t.atn = s.atn.raise .pageClosed ∧
        (x.cause ≠ .flush ∨ (∀ h, s.wk.state ≠ .workingFlush h) → t.wk = s.wk) ∧
        ∀ h, x.cause = .flush → s.wk.state = .workingFlush h → t.wk = { s.wk with
          state := .closingResult h { code := .done, value := x.sequence, params := [] } }) ∧
  (∀ (s : State) (a : Access) (rest : List Access) (w : MirrorWrite), s.port = a :: rest → a.kind = .mirrorWrite →
    s.mir.writing = some w → ∀ (mem : List Host.Cell) (atn : Attention), mem = Memory.putWords s.mem a.addr.toNat a.data →
    atn = (if w.atStop then s.atn.raise .stopped else s.atn) →
    (s.mir.waiting = none ∨ s.ctl.op = .stopping → exec .mirrorWriteComplete s = .next
      ((((s.setMem mem).setPort rest).setAtn atn).setMir { s.mir with writing := none })) ∧
    (∀ i, s.mir.waiting = some i → s.ctl.op = .running ∨ s.ctl.op = .stopped → exec .mirrorWriteComplete s = .next
      ((((s.setMem mem).setAtn atn).setMir { s.mir with writing := some { image := i, atStop := false }, waiting := none }).setPort
        (rest ++ [{ kind := .mirrorWrite, addr := s.ctl.areaBase + 32, data := i.words }]))))

/-- The entry to STOPPED (R173, R5, R4): in STOPPING with every unit settled the mirror writer captures an image and
issues it, laid out as R4 and 13 give; while a unit has not settled, and outside STOPPING, nothing changes. (The command in a
state that has not settled: log entry 3.) -/
def Obligations.EnterStoppedCaptures : Prop :=
  ImageLayout ∧
  ∀ s : State,
    (s.ctl.op = .stopping → s.wk.state = .idle → (∀ a ∈ s.port, a.kind.agent ≠ .walker) → s.eng.frameState = .parked →
      s.arb.Idle → s.spt.state = .empty → s.spt.writes = [] → s.spt.snapshot = none → s.jrn.writes = [] →
      s.mir.writing = none → ∀ i : Image,
        i = { frameNumber := s.eng.frameNumber, lastRecord := s.jrn.recordSeq
              openPage := (match s.jrn.page with
                | some page => page.addr
                | none => 0)
              anchor := s.wk.anchor.addr s.ctl.areaBase, gap := s.eng.gap, pagesQueued := s.jrn.queue.length
              rate := s.eng.rate, starved := s.jrn.starved } →
        exec .enterStopped s = .next
          (((s.setCtl { s.ctl with op := .stopped }).setMir
            { s.mir with writing := some { image := i, atStop := true }, waiting := none }).setPort
            (s.port ++ [{ kind := .mirrorWrite, addr := s.ctl.areaBase + 32, data := i.words }]))) ∧
    (s.ctl.op ≠ .stopping ∨ s.wk.state ≠ .idle ∨ (∃ a ∈ s.port, a.kind.agent = .walker) ∨ s.eng.frameState ≠ .parked ∨ ¬ s.arb.Idle ∨ s.spt.state ≠ .empty ∨
      s.spt.writes ≠ [] ∨ s.spt.snapshot ≠ none ∨ s.jrn.writes ≠ [] ∨ s.mir.writing ≠ none →
      exec .enterStopped s = .next s)

/-! ### Invariants -/

/-- Every step keeps shared memory in its canonical form. (What the list holds is the model's choice, log entry 7.) -/
def Obligations.MemoryStaysCanonical : Prop :=
  ∀ s t : State, s.MemoryCanonical → step s = .next t → t.MemoryCanonical

/-- Every step keeps what each operating state says of RUN, AREA_BASE, the fault registers and the units (R1, R169,
R170, R171, R178, R180, R13), and with it the relation of the frame number to the last admitted frame, the gap count, the
merged count and a pending start (R117; with expiries inside a frame's end: log entry 28). -/
def Obligations.ModesStayCoherent : Prop :=
  ∀ s t : State, s.ctl.Coherent → s.ModeCoherent → step s = .next t →
    t.ctl.Coherent ∧ t.ModeCoherent ∧ (s.GapCounts → t.GapCounts)

/-- Every step keeps the page pool sound (R126, R14). -/
def Obligations.PagePoolStaysSound : Prop :=
  ∀ s t : State, s.jrn.PoolOk → step s = .next t → t.jrn.PoolOk

/-- Every step keeps every point's items in their ranges and in agreement with its state (R39, R40, R58, R78, R87,
R94). -/
def Obligations.PointsStayInRange : Prop :=
  ∀ s t : State, s.PointsOk → step s = .next t → t.PointsOk

/-- Every step keeps each point in at most one group and each reference a member (R96, R97). -/
def Obligations.GroupsStayDisjoint : Prop :=
  ∀ s t : State, GroupsOk s.eng.groups → step s = .next t → GroupsOk t.eng.groups

/-- Every step keeps the output unit's view equal to the point table's states outside FAULTED (R160, R43; in FAULTED R166 lets
the table be ahead of the view), and no entry to FAULTED before the output unit outlasts its step (the model's own field, log
entry 29). -/
def Obligations.ViewFollowsTable : Prop :=
  ∀ s t : State, s.ViewFollows → step s = .next t → t.ViewFollows

/-- Every step keeps each agent at the one access it waits for (R9), and no event of the scan engine carried out between steps (the
model's own item, log entry 27). -/
def Obligations.OneAccessAnAgent : Prop :=
  ∀ s t : State, s.ctl.Coherent → s.ModeCoherent → s.PortOk → step s = .next t → t.PortOk

/-- The state after reset satisfies every invariant. -/
def Obligations.InvariantsHoldAtReset : Prop :=
  State.reset.MemoryCanonical ∧ State.reset.ctl.Coherent ∧ State.reset.ModeCoherent ∧ State.reset.GapCounts ∧
    State.reset.jrn.PoolOk ∧
    State.reset.PointsOk ∧ GroupsOk State.reset.eng.groups ∧ State.reset.ViewOk ∧ State.reset.ViewFollows ∧ State.reset.PortOk
end

