-- ==== Sys2Proof/Laws/State.lean ====
section
/-! SUPPORT. One lemma per unit per update of the state, true by rfl, so that no proof unfolds a record update. -/

namespace Sys2Proof.Machine

variable (s : State)

/-! ### setCtl -/

@[simp] theorem State.setCtl_ctl (x : ControlUnit) : (s.setCtl x).ctl = x := rfl
@[simp] theorem State.setCtl_port (x : ControlUnit) : (s.setCtl x).port = s.port := rfl
@[simp] theorem State.setCtl_wk (x : ControlUnit) : (s.setCtl x).wk = s.wk := rfl
@[simp] theorem State.setCtl_eng (x : ControlUnit) : (s.setCtl x).eng = s.eng := rfl
@[simp] theorem State.setCtl_arb (x : ControlUnit) : (s.setCtl x).arb = s.arb := rfl
@[simp] theorem State.setCtl_jrn (x : ControlUnit) : (s.setCtl x).jrn = s.jrn := rfl
@[simp] theorem State.setCtl_spt (x : ControlUnit) : (s.setCtl x).spt = s.spt := rfl
@[simp] theorem State.setCtl_mir (x : ControlUnit) : (s.setCtl x).mir = s.mir := rfl
@[simp] theorem State.setCtl_out (x : ControlUnit) : (s.setCtl x).out = s.out := rfl
@[simp] theorem State.setCtl_atn (x : ControlUnit) : (s.setCtl x).atn = s.atn := rfl
@[simp] theorem State.setCtl_mem (x : ControlUnit) : (s.setCtl x).mem = s.mem := rfl
@[simp] theorem State.setCtl_readData (x : ControlUnit) : (s.setCtl x).readData = s.readData := rfl
@[simp] theorem State.setCtl_tick (x : ControlUnit) : (s.setCtl x).tick = s.tick := rfl
@[simp] theorem State.setCtl_pending (x : ControlUnit) : (s.setCtl x).pending = s.pending := rfl
@[simp] theorem State.setCtl_setCtl (x y : ControlUnit) : (s.setCtl x).setCtl y = s.setCtl y := rfl

/-! ### setPort -/

@[simp] theorem State.setPort_ctl (x : List Access) : (s.setPort x).ctl = s.ctl := rfl
@[simp] theorem State.setPort_port (x : List Access) : (s.setPort x).port = x := rfl
@[simp] theorem State.setPort_wk (x : List Access) : (s.setPort x).wk = s.wk := rfl
@[simp] theorem State.setPort_eng (x : List Access) : (s.setPort x).eng = s.eng := rfl
@[simp] theorem State.setPort_arb (x : List Access) : (s.setPort x).arb = s.arb := rfl
@[simp] theorem State.setPort_jrn (x : List Access) : (s.setPort x).jrn = s.jrn := rfl
@[simp] theorem State.setPort_spt (x : List Access) : (s.setPort x).spt = s.spt := rfl
@[simp] theorem State.setPort_mir (x : List Access) : (s.setPort x).mir = s.mir := rfl
@[simp] theorem State.setPort_out (x : List Access) : (s.setPort x).out = s.out := rfl
@[simp] theorem State.setPort_atn (x : List Access) : (s.setPort x).atn = s.atn := rfl
@[simp] theorem State.setPort_mem (x : List Access) : (s.setPort x).mem = s.mem := rfl
@[simp] theorem State.setPort_readData (x : List Access) : (s.setPort x).readData = s.readData := rfl
@[simp] theorem State.setPort_tick (x : List Access) : (s.setPort x).tick = s.tick := rfl
@[simp] theorem State.setPort_pending (x : List Access) : (s.setPort x).pending = s.pending := rfl
@[simp] theorem State.setPort_setPort (x y : List Access) : (s.setPort x).setPort y = s.setPort y := rfl

/-! ### setWk -/

@[simp] theorem State.setWk_ctl (x : Walker) : (s.setWk x).ctl = s.ctl := rfl
@[simp] theorem State.setWk_port (x : Walker) : (s.setWk x).port = s.port := rfl
@[simp] theorem State.setWk_wk (x : Walker) : (s.setWk x).wk = x := rfl
@[simp] theorem State.setWk_eng (x : Walker) : (s.setWk x).eng = s.eng := rfl
@[simp] theorem State.setWk_arb (x : Walker) : (s.setWk x).arb = s.arb := rfl
@[simp] theorem State.setWk_jrn (x : Walker) : (s.setWk x).jrn = s.jrn := rfl
@[simp] theorem State.setWk_spt (x : Walker) : (s.setWk x).spt = s.spt := rfl
@[simp] theorem State.setWk_mir (x : Walker) : (s.setWk x).mir = s.mir := rfl
@[simp] theorem State.setWk_out (x : Walker) : (s.setWk x).out = s.out := rfl
@[simp] theorem State.setWk_atn (x : Walker) : (s.setWk x).atn = s.atn := rfl
@[simp] theorem State.setWk_mem (x : Walker) : (s.setWk x).mem = s.mem := rfl
@[simp] theorem State.setWk_readData (x : Walker) : (s.setWk x).readData = s.readData := rfl
@[simp] theorem State.setWk_tick (x : Walker) : (s.setWk x).tick = s.tick := rfl
@[simp] theorem State.setWk_pending (x : Walker) : (s.setWk x).pending = s.pending := rfl
@[simp] theorem State.setWk_setWk (x y : Walker) : (s.setWk x).setWk y = s.setWk y := rfl

/-! ### setEng -/

@[simp] theorem State.setEng_ctl (x : ScanEngine) : (s.setEng x).ctl = s.ctl := rfl
@[simp] theorem State.setEng_port (x : ScanEngine) : (s.setEng x).port = s.port := rfl
@[simp] theorem State.setEng_wk (x : ScanEngine) : (s.setEng x).wk = s.wk := rfl
@[simp] theorem State.setEng_eng (x : ScanEngine) : (s.setEng x).eng = x := rfl
@[simp] theorem State.setEng_arb (x : ScanEngine) : (s.setEng x).arb = s.arb := rfl
@[simp] theorem State.setEng_jrn (x : ScanEngine) : (s.setEng x).jrn = s.jrn := rfl
@[simp] theorem State.setEng_spt (x : ScanEngine) : (s.setEng x).spt = s.spt := rfl
@[simp] theorem State.setEng_mir (x : ScanEngine) : (s.setEng x).mir = s.mir := rfl
@[simp] theorem State.setEng_out (x : ScanEngine) : (s.setEng x).out = s.out := rfl
@[simp] theorem State.setEng_atn (x : ScanEngine) : (s.setEng x).atn = s.atn := rfl
@[simp] theorem State.setEng_mem (x : ScanEngine) : (s.setEng x).mem = s.mem := rfl
@[simp] theorem State.setEng_readData (x : ScanEngine) : (s.setEng x).readData = s.readData := rfl
@[simp] theorem State.setEng_tick (x : ScanEngine) : (s.setEng x).tick = s.tick := rfl
@[simp] theorem State.setEng_pending (x : ScanEngine) : (s.setEng x).pending = s.pending := rfl
@[simp] theorem State.setEng_setEng (x y : ScanEngine) : (s.setEng x).setEng y = s.setEng y := rfl

/-! ### setArb -/

@[simp] theorem State.setArb_ctl (x : Arbiter) : (s.setArb x).ctl = s.ctl := rfl
@[simp] theorem State.setArb_port (x : Arbiter) : (s.setArb x).port = s.port := rfl
@[simp] theorem State.setArb_wk (x : Arbiter) : (s.setArb x).wk = s.wk := rfl
@[simp] theorem State.setArb_eng (x : Arbiter) : (s.setArb x).eng = s.eng := rfl
@[simp] theorem State.setArb_arb (x : Arbiter) : (s.setArb x).arb = x := rfl
@[simp] theorem State.setArb_jrn (x : Arbiter) : (s.setArb x).jrn = s.jrn := rfl
@[simp] theorem State.setArb_spt (x : Arbiter) : (s.setArb x).spt = s.spt := rfl
@[simp] theorem State.setArb_mir (x : Arbiter) : (s.setArb x).mir = s.mir := rfl
@[simp] theorem State.setArb_out (x : Arbiter) : (s.setArb x).out = s.out := rfl
@[simp] theorem State.setArb_atn (x : Arbiter) : (s.setArb x).atn = s.atn := rfl
@[simp] theorem State.setArb_mem (x : Arbiter) : (s.setArb x).mem = s.mem := rfl
@[simp] theorem State.setArb_readData (x : Arbiter) : (s.setArb x).readData = s.readData := rfl
@[simp] theorem State.setArb_tick (x : Arbiter) : (s.setArb x).tick = s.tick := rfl
@[simp] theorem State.setArb_pending (x : Arbiter) : (s.setArb x).pending = s.pending := rfl
@[simp] theorem State.setArb_setArb (x y : Arbiter) : (s.setArb x).setArb y = s.setArb y := rfl

/-! ### setJrn -/

@[simp] theorem State.setJrn_ctl (x : Journal) : (s.setJrn x).ctl = s.ctl := rfl
@[simp] theorem State.setJrn_port (x : Journal) : (s.setJrn x).port = s.port := rfl
@[simp] theorem State.setJrn_wk (x : Journal) : (s.setJrn x).wk = s.wk := rfl
@[simp] theorem State.setJrn_eng (x : Journal) : (s.setJrn x).eng = s.eng := rfl
@[simp] theorem State.setJrn_arb (x : Journal) : (s.setJrn x).arb = s.arb := rfl
@[simp] theorem State.setJrn_jrn (x : Journal) : (s.setJrn x).jrn = x := rfl
@[simp] theorem State.setJrn_spt (x : Journal) : (s.setJrn x).spt = s.spt := rfl
@[simp] theorem State.setJrn_mir (x : Journal) : (s.setJrn x).mir = s.mir := rfl
@[simp] theorem State.setJrn_out (x : Journal) : (s.setJrn x).out = s.out := rfl
@[simp] theorem State.setJrn_atn (x : Journal) : (s.setJrn x).atn = s.atn := rfl
@[simp] theorem State.setJrn_mem (x : Journal) : (s.setJrn x).mem = s.mem := rfl
@[simp] theorem State.setJrn_readData (x : Journal) : (s.setJrn x).readData = s.readData := rfl
@[simp] theorem State.setJrn_tick (x : Journal) : (s.setJrn x).tick = s.tick := rfl
@[simp] theorem State.setJrn_pending (x : Journal) : (s.setJrn x).pending = s.pending := rfl
@[simp] theorem State.setJrn_setJrn (x y : Journal) : (s.setJrn x).setJrn y = s.setJrn y := rfl

/-! ### setSpt -/

@[simp] theorem State.setSpt_ctl (x : SpotUnit) : (s.setSpt x).ctl = s.ctl := rfl
@[simp] theorem State.setSpt_port (x : SpotUnit) : (s.setSpt x).port = s.port := rfl
@[simp] theorem State.setSpt_wk (x : SpotUnit) : (s.setSpt x).wk = s.wk := rfl
@[simp] theorem State.setSpt_eng (x : SpotUnit) : (s.setSpt x).eng = s.eng := rfl
@[simp] theorem State.setSpt_arb (x : SpotUnit) : (s.setSpt x).arb = s.arb := rfl
@[simp] theorem State.setSpt_jrn (x : SpotUnit) : (s.setSpt x).jrn = s.jrn := rfl
@[simp] theorem State.setSpt_spt (x : SpotUnit) : (s.setSpt x).spt = x := rfl
@[simp] theorem State.setSpt_mir (x : SpotUnit) : (s.setSpt x).mir = s.mir := rfl
@[simp] theorem State.setSpt_out (x : SpotUnit) : (s.setSpt x).out = s.out := rfl
@[simp] theorem State.setSpt_atn (x : SpotUnit) : (s.setSpt x).atn = s.atn := rfl
@[simp] theorem State.setSpt_mem (x : SpotUnit) : (s.setSpt x).mem = s.mem := rfl
@[simp] theorem State.setSpt_readData (x : SpotUnit) : (s.setSpt x).readData = s.readData := rfl
@[simp] theorem State.setSpt_tick (x : SpotUnit) : (s.setSpt x).tick = s.tick := rfl
@[simp] theorem State.setSpt_pending (x : SpotUnit) : (s.setSpt x).pending = s.pending := rfl
@[simp] theorem State.setSpt_setSpt (x y : SpotUnit) : (s.setSpt x).setSpt y = s.setSpt y := rfl

/-! ### setMir -/

@[simp] theorem State.setMir_ctl (x : Mirror) : (s.setMir x).ctl = s.ctl := rfl
@[simp] theorem State.setMir_port (x : Mirror) : (s.setMir x).port = s.port := rfl
@[simp] theorem State.setMir_wk (x : Mirror) : (s.setMir x).wk = s.wk := rfl
@[simp] theorem State.setMir_eng (x : Mirror) : (s.setMir x).eng = s.eng := rfl
@[simp] theorem State.setMir_arb (x : Mirror) : (s.setMir x).arb = s.arb := rfl
@[simp] theorem State.setMir_jrn (x : Mirror) : (s.setMir x).jrn = s.jrn := rfl
@[simp] theorem State.setMir_spt (x : Mirror) : (s.setMir x).spt = s.spt := rfl
@[simp] theorem State.setMir_mir (x : Mirror) : (s.setMir x).mir = x := rfl
@[simp] theorem State.setMir_out (x : Mirror) : (s.setMir x).out = s.out := rfl
@[simp] theorem State.setMir_atn (x : Mirror) : (s.setMir x).atn = s.atn := rfl
@[simp] theorem State.setMir_mem (x : Mirror) : (s.setMir x).mem = s.mem := rfl
@[simp] theorem State.setMir_readData (x : Mirror) : (s.setMir x).readData = s.readData := rfl
@[simp] theorem State.setMir_tick (x : Mirror) : (s.setMir x).tick = s.tick := rfl
@[simp] theorem State.setMir_pending (x : Mirror) : (s.setMir x).pending = s.pending := rfl
@[simp] theorem State.setMir_setMir (x y : Mirror) : (s.setMir x).setMir y = s.setMir y := rfl

/-! ### setOut -/

@[simp] theorem State.setOut_ctl (x : OutputUnit) : (s.setOut x).ctl = s.ctl := rfl
@[simp] theorem State.setOut_port (x : OutputUnit) : (s.setOut x).port = s.port := rfl
@[simp] theorem State.setOut_wk (x : OutputUnit) : (s.setOut x).wk = s.wk := rfl
@[simp] theorem State.setOut_eng (x : OutputUnit) : (s.setOut x).eng = s.eng := rfl
@[simp] theorem State.setOut_arb (x : OutputUnit) : (s.setOut x).arb = s.arb := rfl
@[simp] theorem State.setOut_jrn (x : OutputUnit) : (s.setOut x).jrn = s.jrn := rfl
@[simp] theorem State.setOut_spt (x : OutputUnit) : (s.setOut x).spt = s.spt := rfl
@[simp] theorem State.setOut_mir (x : OutputUnit) : (s.setOut x).mir = s.mir := rfl
@[simp] theorem State.setOut_out (x : OutputUnit) : (s.setOut x).out = x := rfl
@[simp] theorem State.setOut_atn (x : OutputUnit) : (s.setOut x).atn = s.atn := rfl
@[simp] theorem State.setOut_mem (x : OutputUnit) : (s.setOut x).mem = s.mem := rfl
@[simp] theorem State.setOut_readData (x : OutputUnit) : (s.setOut x).readData = s.readData := rfl
@[simp] theorem State.setOut_tick (x : OutputUnit) : (s.setOut x).tick = s.tick := rfl
@[simp] theorem State.setOut_pending (x : OutputUnit) : (s.setOut x).pending = s.pending := rfl
@[simp] theorem State.setOut_setOut (x y : OutputUnit) : (s.setOut x).setOut y = s.setOut y := rfl

/-! ### setAtn -/

@[simp] theorem State.setAtn_ctl (x : Attention) : (s.setAtn x).ctl = s.ctl := rfl
@[simp] theorem State.setAtn_port (x : Attention) : (s.setAtn x).port = s.port := rfl
@[simp] theorem State.setAtn_wk (x : Attention) : (s.setAtn x).wk = s.wk := rfl
@[simp] theorem State.setAtn_eng (x : Attention) : (s.setAtn x).eng = s.eng := rfl
@[simp] theorem State.setAtn_arb (x : Attention) : (s.setAtn x).arb = s.arb := rfl
@[simp] theorem State.setAtn_jrn (x : Attention) : (s.setAtn x).jrn = s.jrn := rfl
@[simp] theorem State.setAtn_spt (x : Attention) : (s.setAtn x).spt = s.spt := rfl
@[simp] theorem State.setAtn_mir (x : Attention) : (s.setAtn x).mir = s.mir := rfl
@[simp] theorem State.setAtn_out (x : Attention) : (s.setAtn x).out = s.out := rfl
@[simp] theorem State.setAtn_atn (x : Attention) : (s.setAtn x).atn = x := rfl
@[simp] theorem State.setAtn_mem (x : Attention) : (s.setAtn x).mem = s.mem := rfl
@[simp] theorem State.setAtn_readData (x : Attention) : (s.setAtn x).readData = s.readData := rfl
@[simp] theorem State.setAtn_tick (x : Attention) : (s.setAtn x).tick = s.tick := rfl
@[simp] theorem State.setAtn_pending (x : Attention) : (s.setAtn x).pending = s.pending := rfl
@[simp] theorem State.setAtn_setAtn (x y : Attention) : (s.setAtn x).setAtn y = s.setAtn y := rfl

/-! ### setMem -/

@[simp] theorem State.setMem_ctl (x : List Host.Cell) : (s.setMem x).ctl = s.ctl := rfl
@[simp] theorem State.setMem_port (x : List Host.Cell) : (s.setMem x).port = s.port := rfl
@[simp] theorem State.setMem_wk (x : List Host.Cell) : (s.setMem x).wk = s.wk := rfl
@[simp] theorem State.setMem_eng (x : List Host.Cell) : (s.setMem x).eng = s.eng := rfl
@[simp] theorem State.setMem_arb (x : List Host.Cell) : (s.setMem x).arb = s.arb := rfl
@[simp] theorem State.setMem_jrn (x : List Host.Cell) : (s.setMem x).jrn = s.jrn := rfl
@[simp] theorem State.setMem_spt (x : List Host.Cell) : (s.setMem x).spt = s.spt := rfl
@[simp] theorem State.setMem_mir (x : List Host.Cell) : (s.setMem x).mir = s.mir := rfl
@[simp] theorem State.setMem_out (x : List Host.Cell) : (s.setMem x).out = s.out := rfl
@[simp] theorem State.setMem_atn (x : List Host.Cell) : (s.setMem x).atn = s.atn := rfl
@[simp] theorem State.setMem_mem (x : List Host.Cell) : (s.setMem x).mem = x := rfl
@[simp] theorem State.setMem_readData (x : List Host.Cell) : (s.setMem x).readData = s.readData := rfl
@[simp] theorem State.setMem_tick (x : List Host.Cell) : (s.setMem x).tick = s.tick := rfl
@[simp] theorem State.setMem_pending (x : List Host.Cell) : (s.setMem x).pending = s.pending := rfl
@[simp] theorem State.setMem_setMem (x y : List Host.Cell) : (s.setMem x).setMem y = s.setMem y := rfl

/-! ### setReadData -/

@[simp] theorem State.setReadData_ctl (x : Word) : (s.setReadData x).ctl = s.ctl := rfl
@[simp] theorem State.setReadData_port (x : Word) : (s.setReadData x).port = s.port := rfl
@[simp] theorem State.setReadData_wk (x : Word) : (s.setReadData x).wk = s.wk := rfl
@[simp] theorem State.setReadData_eng (x : Word) : (s.setReadData x).eng = s.eng := rfl
@[simp] theorem State.setReadData_arb (x : Word) : (s.setReadData x).arb = s.arb := rfl
@[simp] theorem State.setReadData_jrn (x : Word) : (s.setReadData x).jrn = s.jrn := rfl
@[simp] theorem State.setReadData_spt (x : Word) : (s.setReadData x).spt = s.spt := rfl
@[simp] theorem State.setReadData_mir (x : Word) : (s.setReadData x).mir = s.mir := rfl
@[simp] theorem State.setReadData_out (x : Word) : (s.setReadData x).out = s.out := rfl
@[simp] theorem State.setReadData_atn (x : Word) : (s.setReadData x).atn = s.atn := rfl
@[simp] theorem State.setReadData_mem (x : Word) : (s.setReadData x).mem = s.mem := rfl
@[simp] theorem State.setReadData_readData (x : Word) : (s.setReadData x).readData = x := rfl
@[simp] theorem State.setReadData_tick (x : Word) : (s.setReadData x).tick = s.tick := rfl
@[simp] theorem State.setReadData_pending (x : Word) : (s.setReadData x).pending = s.pending := rfl
@[simp] theorem State.setReadData_setReadData (x y : Word) : (s.setReadData x).setReadData y = s.setReadData y := rfl

/-! ### setTick -/

@[simp] theorem State.setTick_ctl (x : Nat) : (s.setTick x).ctl = s.ctl := rfl
@[simp] theorem State.setTick_port (x : Nat) : (s.setTick x).port = s.port := rfl
@[simp] theorem State.setTick_wk (x : Nat) : (s.setTick x).wk = s.wk := rfl
@[simp] theorem State.setTick_eng (x : Nat) : (s.setTick x).eng = s.eng := rfl
@[simp] theorem State.setTick_arb (x : Nat) : (s.setTick x).arb = s.arb := rfl
@[simp] theorem State.setTick_jrn (x : Nat) : (s.setTick x).jrn = s.jrn := rfl
@[simp] theorem State.setTick_spt (x : Nat) : (s.setTick x).spt = s.spt := rfl
@[simp] theorem State.setTick_mir (x : Nat) : (s.setTick x).mir = s.mir := rfl
@[simp] theorem State.setTick_out (x : Nat) : (s.setTick x).out = s.out := rfl
@[simp] theorem State.setTick_atn (x : Nat) : (s.setTick x).atn = s.atn := rfl
@[simp] theorem State.setTick_mem (x : Nat) : (s.setTick x).mem = s.mem := rfl
@[simp] theorem State.setTick_readData (x : Nat) : (s.setTick x).readData = s.readData := rfl
@[simp] theorem State.setTick_tick (x : Nat) : (s.setTick x).tick = x := rfl
@[simp] theorem State.setTick_pending (x : Nat) : (s.setTick x).pending = s.pending := rfl
@[simp] theorem State.setTick_setTick (x y : Nat) : (s.setTick x).setTick y = s.setTick y := rfl

/-! ### setPending -/

@[simp] theorem State.setPending_ctl (x : List Instr) : (s.setPending x).ctl = s.ctl := rfl
@[simp] theorem State.setPending_port (x : List Instr) : (s.setPending x).port = s.port := rfl
@[simp] theorem State.setPending_wk (x : List Instr) : (s.setPending x).wk = s.wk := rfl
@[simp] theorem State.setPending_eng (x : List Instr) : (s.setPending x).eng = s.eng := rfl
@[simp] theorem State.setPending_arb (x : List Instr) : (s.setPending x).arb = s.arb := rfl
@[simp] theorem State.setPending_jrn (x : List Instr) : (s.setPending x).jrn = s.jrn := rfl
@[simp] theorem State.setPending_spt (x : List Instr) : (s.setPending x).spt = s.spt := rfl
@[simp] theorem State.setPending_mir (x : List Instr) : (s.setPending x).mir = s.mir := rfl
@[simp] theorem State.setPending_out (x : List Instr) : (s.setPending x).out = s.out := rfl
@[simp] theorem State.setPending_atn (x : List Instr) : (s.setPending x).atn = s.atn := rfl
@[simp] theorem State.setPending_mem (x : List Instr) : (s.setPending x).mem = s.mem := rfl
@[simp] theorem State.setPending_readData (x : List Instr) : (s.setPending x).readData = s.readData := rfl
@[simp] theorem State.setPending_tick (x : List Instr) : (s.setPending x).tick = s.tick := rfl
@[simp] theorem State.setPending_pending (x : List Instr) : (s.setPending x).pending = x := rfl
@[simp] theorem State.setPending_setPending (x y : List Instr) : (s.setPending x).setPending y = s.setPending y := rfl

/-! ### walkTo -/

@[simp] theorem State.walkTo_ctl (w : WalkerState) : (s.walkTo w).ctl = s.ctl := rfl
@[simp] theorem State.walkTo_port (w : WalkerState) : (s.walkTo w).port = s.port := rfl
@[simp] theorem State.walkTo_wk (w : WalkerState) : (s.walkTo w).wk = { s.wk with state := w } := rfl
@[simp] theorem State.walkTo_eng (w : WalkerState) : (s.walkTo w).eng = s.eng := rfl
@[simp] theorem State.walkTo_arb (w : WalkerState) : (s.walkTo w).arb = s.arb := rfl
@[simp] theorem State.walkTo_jrn (w : WalkerState) : (s.walkTo w).jrn = s.jrn := rfl
@[simp] theorem State.walkTo_spt (w : WalkerState) : (s.walkTo w).spt = s.spt := rfl
@[simp] theorem State.walkTo_mir (w : WalkerState) : (s.walkTo w).mir = s.mir := rfl
@[simp] theorem State.walkTo_out (w : WalkerState) : (s.walkTo w).out = s.out := rfl
@[simp] theorem State.walkTo_atn (w : WalkerState) : (s.walkTo w).atn = s.atn := rfl
@[simp] theorem State.walkTo_mem (w : WalkerState) : (s.walkTo w).mem = s.mem := rfl
@[simp] theorem State.walkTo_readData (w : WalkerState) : (s.walkTo w).readData = s.readData := rfl
@[simp] theorem State.walkTo_tick (w : WalkerState) : (s.walkTo w).tick = s.tick := rfl
@[simp] theorem State.walkTo_pending (w : WalkerState) : (s.walkTo w).pending = s.pending := rfl

/-! ### setPoint -/

/-- A point's record reads back as it was put. -/
@[simp] theorem State.point_setPoint_same (p : PointId) (x : Point) : (s.setPoint p x).point p = x := by
  simp [State.point, State.setPoint]

/-- Putting one point's record leaves every other point's record. -/
theorem State.point_setPoint_other {p q : PointId} (h : q ≠ p) (x : Point) : (s.setPoint p x).point q = s.point q := by
  have hv : p.val ≠ q.val := fun e => h (Fin.ext e.symm)
  simp [State.point, State.setPoint, Vector.getElem_set_ne, hv]

/-- Two states with the same units are the same. -/
theorem State.eq_of_fields {s t : State} (ctl : s.ctl = t.ctl) (port : s.port = t.port) (wk : s.wk = t.wk) (eng : s.eng = t.eng)
    (arb : s.arb = t.arb) (jrn : s.jrn = t.jrn) (spt : s.spt = t.spt) (mir : s.mir = t.mir) (out : s.out = t.out)
    (atn : s.atn = t.atn) (mem : s.mem = t.mem) (readData : s.readData = t.readData) (tick : s.tick = t.tick)
    (pending : s.pending = t.pending) : s = t := by
  cases s
  cases t
  subst ctl port wk eng arb jrn spt mir out atn mem readData tick pending
  rfl

end Sys2Proof.Machine
end

