-- ==== Sys2Proof/Laws/Frames.lean ====
section
/-! SUPPORT. What each shared operation leaves alone, unit by unit: one lemma an operation, each conjunct a rewrite rule. -/

namespace Sys2Proof.Machine

variable (s : State)

/-! ### Ops -/

@[simp] theorem issue_keeps (k : AccessKind) (a : Word) (d : List Word) :
    (issue k a d s).ctl = s.ctl ∧ (issue k a d s).wk = s.wk ∧ (issue k a d s).eng = s.eng ∧ (issue k a d s).arb = s.arb ∧
    (issue k a d s).jrn = s.jrn ∧ (issue k a d s).spt = s.spt ∧ (issue k a d s).mir = s.mir ∧ (issue k a d s).out = s.out ∧
    (issue k a d s).atn = s.atn ∧ (issue k a d s).mem = s.mem ∧ (issue k a d s).readData = s.readData ∧
    (issue k a d s).tick = s.tick ∧ (issue k a d s).pending = s.pending := by
  unfold issue
  simp

@[simp] theorem retire_keeps :
    (retire s).ctl = s.ctl ∧ (retire s).wk = s.wk ∧ (retire s).eng = s.eng ∧ (retire s).arb = s.arb ∧ (retire s).jrn = s.jrn ∧
    (retire s).spt = s.spt ∧ (retire s).mir = s.mir ∧ (retire s).out = s.out ∧ (retire s).atn = s.atn ∧
    (retire s).readData = s.readData ∧ (retire s).tick = s.tick ∧ (retire s).pending = s.pending := by
  unfold retire
  (repeat' split) <;> simp

@[simp] theorem abandonAccesses_keeps (leaves : Access → Bool) :
    (abandonAccesses leaves s).ctl = s.ctl ∧ (abandonAccesses leaves s).wk = s.wk ∧
    (abandonAccesses leaves s).eng = s.eng ∧ (abandonAccesses leaves s).arb = s.arb ∧
    (abandonAccesses leaves s).jrn = s.jrn ∧ (abandonAccesses leaves s).spt = s.spt ∧
    (abandonAccesses leaves s).mir = s.mir ∧ (abandonAccesses leaves s).out = s.out ∧
    (abandonAccesses leaves s).atn = s.atn ∧ (abandonAccesses leaves s).readData = s.readData ∧
    (abandonAccesses leaves s).pending = s.pending := by
  unfold abandonAccesses
  (repeat' split) <;> simp

@[simp] theorem receiveTogether_keeps (n : Nat) :
    (receiveTogether n s).ctl = s.ctl ∧ (receiveTogether n s).wk = s.wk ∧ (receiveTogether n s).eng = s.eng ∧
    (receiveTogether n s).arb = s.arb ∧ (receiveTogether n s).jrn = s.jrn ∧ (receiveTogether n s).spt = s.spt ∧
    (receiveTogether n s).mir = s.mir ∧ (receiveTogether n s).out = s.out ∧ (receiveTogether n s).atn = s.atn ∧
    (receiveTogether n s).mem = s.mem ∧ (receiveTogether n s).readData = s.readData ∧
    (receiveTogether n s).pending = s.pending := by
  simp [receiveTogether]

@[simp] theorem raise_keeps (c : Cause) :
    (raise c s).ctl = s.ctl ∧ (raise c s).port = s.port ∧ (raise c s).wk = s.wk ∧ (raise c s).eng = s.eng ∧
    (raise c s).arb = s.arb ∧ (raise c s).jrn = s.jrn ∧ (raise c s).spt = s.spt ∧ (raise c s).mir = s.mir ∧
    (raise c s).out = s.out ∧ (raise c s).mem = s.mem ∧ (raise c s).readData = s.readData ∧ (raise c s).tick = s.tick ∧
    (raise c s).pending = s.pending := by
  unfold raise
  simp

@[simp] theorem State.setPoint_keeps (p : PointId) (x : Point) :
    (s.setPoint p x).ctl = s.ctl ∧ (s.setPoint p x).port = s.port ∧ (s.setPoint p x).wk = s.wk ∧ (s.setPoint p x).arb = s.arb ∧
    (s.setPoint p x).jrn = s.jrn ∧ (s.setPoint p x).spt = s.spt ∧ (s.setPoint p x).mir = s.mir ∧ (s.setPoint p x).out = s.out ∧
    (s.setPoint p x).atn = s.atn ∧ (s.setPoint p x).mem = s.mem ∧ (s.setPoint p x).readData = s.readData ∧
    (s.setPoint p x).tick = s.tick ∧ (s.setPoint p x).pending = s.pending := by
  unfold State.setPoint
  simp

@[simp] theorem State.updatePoint_keeps (p : PointId) (x : Point) :
    (s.updatePoint p x).ctl = s.ctl ∧ (s.updatePoint p x).port = s.port ∧ (s.updatePoint p x).wk = s.wk ∧
    (s.updatePoint p x).arb = s.arb ∧ (s.updatePoint p x).jrn = s.jrn ∧ (s.updatePoint p x).spt = s.spt ∧
    (s.updatePoint p x).mir = s.mir ∧ (s.updatePoint p x).atn = s.atn ∧ (s.updatePoint p x).mem = s.mem ∧
    (s.updatePoint p x).readData = s.readData ∧ (s.updatePoint p x).tick = s.tick ∧
    (s.updatePoint p x).pending = s.pending := by
  unfold State.updatePoint
  (repeat' split) <;> simp

/-! ### Chain -/

@[simp] theorem startLook_keeps :
    (startLook s).ctl = s.ctl ∧ (startLook s).eng = s.eng ∧ (startLook s).arb = s.arb ∧ (startLook s).jrn = s.jrn ∧
    (startLook s).spt = s.spt ∧ (startLook s).mir = s.mir ∧ (startLook s).out = s.out ∧ (startLook s).atn = s.atn ∧
    (startLook s).mem = s.mem ∧ (startLook s).readData = s.readData ∧ (startLook s).tick = s.tick ∧
    (startLook s).pending = s.pending := by
  unfold startLook
  simp

@[simp] theorem enterResting_keeps :
    (enterResting s).ctl = s.ctl ∧ (enterResting s).eng = s.eng ∧ (enterResting s).arb = s.arb ∧ (enterResting s).jrn = s.jrn ∧
    (enterResting s).spt = s.spt ∧ (enterResting s).mir = s.mir ∧ (enterResting s).out = s.out ∧ (enterResting s).atn = s.atn ∧
    (enterResting s).mem = s.mem ∧ (enterResting s).readData = s.readData ∧ (enterResting s).tick = s.tick ∧
    (enterResting s).pending = s.pending := by
  unfold enterResting
  (repeat' split) <;> simp

@[simp] theorem hearLook_keeps :
    (hearLook s).ctl = s.ctl ∧ (hearLook s).eng = s.eng ∧ (hearLook s).arb = s.arb ∧ (hearLook s).jrn = s.jrn ∧
    (hearLook s).spt = s.spt ∧ (hearLook s).mir = s.mir ∧ (hearLook s).out = s.out ∧ (hearLook s).atn = s.atn ∧
    (hearLook s).mem = s.mem ∧ (hearLook s).readData = s.readData ∧ (hearLook s).tick = s.tick ∧
    (hearLook s).pending = s.pending := by
  unfold hearLook
  (repeat' split) <;> simp

@[simp] theorem frameBoundary_keeps :
    (frameBoundary s).ctl = s.ctl ∧ (frameBoundary s).eng = s.eng ∧ (frameBoundary s).arb = s.arb ∧
    (frameBoundary s).jrn = s.jrn ∧ (frameBoundary s).spt = s.spt ∧ (frameBoundary s).mir = s.mir ∧
    (frameBoundary s).out = s.out ∧ (frameBoundary s).atn = s.atn ∧ (frameBoundary s).mem = s.mem ∧
    (frameBoundary s).readData = s.readData ∧ (frameBoundary s).tick = s.tick ∧ (frameBoundary s).pending = s.pending := by
  unfold frameBoundary
  (repeat' split) <;> simp

@[simp] theorem anchorAndLook_keeps (a : Word) :
    (anchorAndLook a s).ctl = s.ctl ∧ (anchorAndLook a s).eng = s.eng ∧ (anchorAndLook a s).arb = s.arb ∧
    (anchorAndLook a s).jrn = s.jrn ∧ (anchorAndLook a s).spt = s.spt ∧ (anchorAndLook a s).mir = s.mir ∧
    (anchorAndLook a s).out = s.out ∧ (anchorAndLook a s).atn = s.atn ∧ (anchorAndLook a s).mem = s.mem ∧
    (anchorAndLook a s).readData = s.readData ∧ (anchorAndLook a s).tick = s.tick ∧
    (anchorAndLook a s).pending = s.pending := by
  unfold anchorAndLook
  simp

@[simp] theorem answer_keeps (h : Held) (a : Answer) :
    (answer h a s).ctl = s.ctl ∧ (answer h a s).eng = s.eng ∧ (answer h a s).arb = s.arb ∧ (answer h a s).jrn = s.jrn ∧
    (answer h a s).spt = s.spt ∧ (answer h a s).mir = s.mir ∧ (answer h a s).out = s.out ∧ (answer h a s).atn = s.atn ∧
    (answer h a s).mem = s.mem ∧ (answer h a s).readData = s.readData ∧ (answer h a s).tick = s.tick ∧
    (answer h a s).pending = s.pending := by
  unfold answer
  simp

/-! ### The journal unit -/

@[simp] theorem pushJournal_keeps (w : JournalWrite) :
    (pushJournal w s).ctl = s.ctl ∧ (pushJournal w s).wk = s.wk ∧ (pushJournal w s).eng = s.eng ∧
    (pushJournal w s).arb = s.arb ∧ (pushJournal w s).spt = s.spt ∧ (pushJournal w s).mir = s.mir ∧
    (pushJournal w s).out = s.out ∧ (pushJournal w s).atn = s.atn ∧ (pushJournal w s).mem = s.mem ∧
    (pushJournal w s).readData = s.readData ∧ (pushJournal w s).tick = s.tick ∧ (pushJournal w s).pending = s.pending := by
  unfold pushJournal
  (repeat' split) <;> simp

@[simp] theorem nextJournalWrite_keeps :
    (nextJournalWrite s).ctl = s.ctl ∧ (nextJournalWrite s).wk = s.wk ∧ (nextJournalWrite s).eng = s.eng ∧
    (nextJournalWrite s).arb = s.arb ∧ (nextJournalWrite s).spt = s.spt ∧ (nextJournalWrite s).mir = s.mir ∧
    (nextJournalWrite s).out = s.out ∧ (nextJournalWrite s).atn = s.atn ∧ (nextJournalWrite s).mem = s.mem ∧
    (nextJournalWrite s).readData = s.readData ∧ (nextJournalWrite s).tick = s.tick ∧
    (nextJournalWrite s).pending = s.pending := by
  unfold nextJournalWrite
  (repeat' split) <;> simp

@[simp] theorem openPage_keeps (a : Word) (r : List Word) :
    (openPage a r s).ctl = s.ctl ∧ (openPage a r s).wk = s.wk ∧ (openPage a r s).eng = s.eng ∧ (openPage a r s).arb = s.arb ∧
    (openPage a r s).spt = s.spt ∧ (openPage a r s).mir = s.mir ∧ (openPage a r s).out = s.out ∧ (openPage a r s).atn = s.atn ∧
    (openPage a r s).mem = s.mem ∧ (openPage a r s).readData = s.readData ∧ (openPage a r s).tick = s.tick ∧
    (openPage a r s).pending = s.pending := by
  unfold openPage
  simp

@[simp] theorem closePage_keeps (c : CloseCause) :
    (closePage c s).ctl = s.ctl ∧ (closePage c s).wk = s.wk ∧ (closePage c s).eng = s.eng ∧ (closePage c s).arb = s.arb ∧
    (closePage c s).spt = s.spt ∧ (closePage c s).mir = s.mir ∧ (closePage c s).out = s.out ∧ (closePage c s).atn = s.atn ∧
    (closePage c s).mem = s.mem ∧ (closePage c s).readData = s.readData ∧ (closePage c s).tick = s.tick ∧
    (closePage c s).pending = s.pending := by
  unfold closePage
  (repeat' split) <;> simp

@[simp] theorem pushRecord_keeps (a : Word) (ws : List Word) :
    (pushRecord a ws s).ctl = s.ctl ∧ (pushRecord a ws s).wk = s.wk ∧ (pushRecord a ws s).eng = s.eng ∧
    (pushRecord a ws s).arb = s.arb ∧ (pushRecord a ws s).spt = s.spt ∧ (pushRecord a ws s).mir = s.mir ∧
    (pushRecord a ws s).out = s.out ∧ (pushRecord a ws s).atn = s.atn ∧ (pushRecord a ws s).mem = s.mem ∧
    (pushRecord a ws s).readData = s.readData ∧ (pushRecord a ws s).tick = s.tick ∧
    (pushRecord a ws s).pending = s.pending := by
  unfold pushRecord
  (repeat' split) <;> simp

@[simp] theorem append_keeps (r : Record) :
    (append r s).ctl = s.ctl ∧ (append r s).wk = s.wk ∧ (append r s).eng = s.eng ∧ (append r s).arb = s.arb ∧
    (append r s).spt = s.spt ∧ (append r s).mir = s.mir ∧ (append r s).out = s.out ∧ (append r s).atn = s.atn ∧
    (append r s).mem = s.mem ∧ (append r s).readData = s.readData ∧ (append r s).tick = s.tick ∧
    (append r s).pending = s.pending := by
  unfold append
  (repeat' split) <;> simp

@[simp] theorem writeCount_keeps :
    (writeCount s).ctl = s.ctl ∧ (writeCount s).wk = s.wk ∧ (writeCount s).eng = s.eng ∧ (writeCount s).arb = s.arb ∧
    (writeCount s).spt = s.spt ∧ (writeCount s).mir = s.mir ∧ (writeCount s).out = s.out ∧ (writeCount s).atn = s.atn ∧
    (writeCount s).mem = s.mem ∧ (writeCount s).readData = s.readData ∧ (writeCount s).tick = s.tick ∧
    (writeCount s).pending = s.pending := by
  unfold writeCount
  (repeat' split) <;> simp

@[simp] theorem lingerExpires_keeps :
    (lingerExpires s).ctl = s.ctl ∧ (lingerExpires s).wk = s.wk ∧ (lingerExpires s).eng = s.eng ∧
    (lingerExpires s).arb = s.arb ∧ (lingerExpires s).spt = s.spt ∧ (lingerExpires s).mir = s.mir ∧
    (lingerExpires s).out = s.out ∧ (lingerExpires s).atn = s.atn ∧ (lingerExpires s).mem = s.mem ∧
    (lingerExpires s).readData = s.readData ∧ (lingerExpires s).tick = s.tick ∧ (lingerExpires s).pending = s.pending := by
  unfold lingerExpires
  (repeat' split) <;> simp

@[simp] theorem admitted_keeps :
    (admitted s).ctl = s.ctl ∧ (admitted s).port = s.port ∧ (admitted s).wk = s.wk ∧ (admitted s).eng = s.eng ∧
    (admitted s).arb = s.arb ∧ (admitted s).spt = s.spt ∧ (admitted s).mir = s.mir ∧ (admitted s).out = s.out ∧
    (admitted s).atn = s.atn ∧ (admitted s).mem = s.mem ∧ (admitted s).readData = s.readData ∧ (admitted s).tick = s.tick ∧
    (admitted s).pending = s.pending := by
  unfold admitted
  simp

@[simp] theorem starve_keeps :
    (starve s).ctl = s.ctl ∧ (starve s).port = s.port ∧ (starve s).wk = s.wk ∧ (starve s).eng = s.eng ∧
    (starve s).arb = s.arb ∧ (starve s).spt = s.spt ∧ (starve s).mir = s.mir ∧ (starve s).out = s.out ∧
    (starve s).mem = s.mem ∧ (starve s).readData = s.readData ∧ (starve s).tick = s.tick ∧ (starve s).pending = s.pending := by
  unfold starve
  (repeat' split) <;> simp

@[simp] theorem openOrStarve_keeps :
    (openOrStarve s).2.ctl = s.ctl ∧ (openOrStarve s).2.wk = s.wk ∧ (openOrStarve s).2.eng = s.eng ∧
    (openOrStarve s).2.arb = s.arb ∧ (openOrStarve s).2.spt = s.spt ∧ (openOrStarve s).2.mir = s.mir ∧
    (openOrStarve s).2.out = s.out ∧ (openOrStarve s).2.mem = s.mem ∧ (openOrStarve s).2.readData = s.readData ∧
    (openOrStarve s).2.tick = s.tick ∧ (openOrStarve s).2.pending = s.pending := by
  unfold openOrStarve
  (repeat' split) <;> simp

@[simp] theorem askRoom_keeps (r : Nat) :
    (askRoom r s).2.ctl = s.ctl ∧ (askRoom r s).2.wk = s.wk ∧ (askRoom r s).2.eng = s.eng ∧ (askRoom r s).2.arb = s.arb ∧
    (askRoom r s).2.spt = s.spt ∧ (askRoom r s).2.mir = s.mir ∧ (askRoom r s).2.out = s.out ∧ (askRoom r s).2.mem = s.mem ∧
    (askRoom r s).2.readData = s.readData ∧ (askRoom r s).2.tick = s.tick ∧ (askRoom r s).2.pending = s.pending := by
  unfold askRoom
  (repeat' split) <;> simp

@[simp] theorem answerFlush_keeps (v : Word) :
    (answerFlush v s).ctl = s.ctl ∧ (answerFlush v s).eng = s.eng ∧ (answerFlush v s).arb = s.arb ∧
    (answerFlush v s).jrn = s.jrn ∧ (answerFlush v s).spt = s.spt ∧ (answerFlush v s).mir = s.mir ∧
    (answerFlush v s).out = s.out ∧ (answerFlush v s).atn = s.atn ∧ (answerFlush v s).mem = s.mem ∧
    (answerFlush v s).readData = s.readData ∧ (answerFlush v s).tick = s.tick ∧ (answerFlush v s).pending = s.pending := by
  unfold answerFlush
  (repeat' split) <;> simp

@[simp] theorem journalFrameOver_keeps :
    (journalFrameOver s).ctl = s.ctl ∧ (journalFrameOver s).eng = s.eng ∧ (journalFrameOver s).arb = s.arb ∧
    (journalFrameOver s).spt = s.spt ∧ (journalFrameOver s).mir = s.mir ∧ (journalFrameOver s).out = s.out ∧
    (journalFrameOver s).atn = s.atn ∧ (journalFrameOver s).mem = s.mem ∧ (journalFrameOver s).readData = s.readData ∧
    (journalFrameOver s).tick = s.tick ∧ (journalFrameOver s).pending = s.pending := by
  unfold journalFrameOver
  (repeat' split) <;> simp

/-! ### Converter and spot unit -/

@[simp] theorem grantScan_keeps (p : PointId) :
    (grantScan p s).ctl = s.ctl ∧ (grantScan p s).port = s.port ∧ (grantScan p s).wk = s.wk ∧ (grantScan p s).jrn = s.jrn ∧
    (grantScan p s).spt = s.spt ∧ (grantScan p s).mir = s.mir ∧ (grantScan p s).out = s.out ∧ (grantScan p s).atn = s.atn ∧
    (grantScan p s).mem = s.mem ∧ (grantScan p s).readData = s.readData ∧ (grantScan p s).tick = s.tick ∧
    (grantScan p s).pending = s.pending := by
  unfold grantScan
  simp

@[simp] theorem grantSpot_keeps :
    (grantSpot s).ctl = s.ctl ∧ (grantSpot s).port = s.port ∧ (grantSpot s).wk = s.wk ∧ (grantSpot s).eng = s.eng ∧
    (grantSpot s).jrn = s.jrn ∧ (grantSpot s).mir = s.mir ∧ (grantSpot s).out = s.out ∧ (grantSpot s).atn = s.atn ∧
    (grantSpot s).mem = s.mem ∧ (grantSpot s).readData = s.readData ∧ (grantSpot s).tick = s.tick ∧
    (grantSpot s).pending = s.pending := by
  unfold grantSpot
  (repeat' split) <;> simp

@[simp] theorem requestScan_keeps (p : PointId) :
    (requestScan p s).ctl = s.ctl ∧ (requestScan p s).port = s.port ∧ (requestScan p s).wk = s.wk ∧
    (requestScan p s).jrn = s.jrn ∧ (requestScan p s).spt = s.spt ∧ (requestScan p s).mir = s.mir ∧
    (requestScan p s).out = s.out ∧ (requestScan p s).atn = s.atn ∧ (requestScan p s).mem = s.mem ∧
    (requestScan p s).readData = s.readData ∧ (requestScan p s).tick = s.tick ∧ (requestScan p s).pending = s.pending := by
  unfold requestScan
  (repeat' split) <;> simp

@[simp] theorem requestSpot_keeps :
    (requestSpot s).ctl = s.ctl ∧ (requestSpot s).port = s.port ∧ (requestSpot s).wk = s.wk ∧ (requestSpot s).eng = s.eng ∧
    (requestSpot s).jrn = s.jrn ∧ (requestSpot s).mir = s.mir ∧ (requestSpot s).out = s.out ∧ (requestSpot s).atn = s.atn ∧
    (requestSpot s).mem = s.mem ∧ (requestSpot s).readData = s.readData ∧ (requestSpot s).tick = s.tick ∧
    (requestSpot s).pending = s.pending := by
  unfold requestSpot
  (repeat' split) <;> simp

@[simp] theorem releaseConverter_keeps :
    (releaseConverter s).ctl = s.ctl ∧ (releaseConverter s).port = s.port ∧ (releaseConverter s).wk = s.wk ∧
    (releaseConverter s).jrn = s.jrn ∧ (releaseConverter s).mir = s.mir ∧ (releaseConverter s).out = s.out ∧
    (releaseConverter s).atn = s.atn ∧ (releaseConverter s).mem = s.mem ∧ (releaseConverter s).readData = s.readData ∧
    (releaseConverter s).tick = s.tick ∧ (releaseConverter s).pending = s.pending := by
  unfold releaseConverter
  (repeat' split) <;> simp

@[simp] theorem withdrawScan_keeps :
    (withdrawScan s).ctl = s.ctl ∧ (withdrawScan s).port = s.port ∧ (withdrawScan s).wk = s.wk ∧ (withdrawScan s).eng = s.eng ∧
    (withdrawScan s).jrn = s.jrn ∧ (withdrawScan s).spt = s.spt ∧ (withdrawScan s).mir = s.mir ∧ (withdrawScan s).out = s.out ∧
    (withdrawScan s).atn = s.atn ∧ (withdrawScan s).mem = s.mem ∧ (withdrawScan s).readData = s.readData ∧
    (withdrawScan s).tick = s.tick ∧ (withdrawScan s).pending = s.pending := by
  unfold withdrawScan
  simp

@[simp] theorem withdrawSpot_keeps :
    (withdrawSpot s).ctl = s.ctl ∧ (withdrawSpot s).port = s.port ∧ (withdrawSpot s).wk = s.wk ∧ (withdrawSpot s).eng = s.eng ∧
    (withdrawSpot s).jrn = s.jrn ∧ (withdrawSpot s).spt = s.spt ∧ (withdrawSpot s).mir = s.mir ∧ (withdrawSpot s).out = s.out ∧
    (withdrawSpot s).atn = s.atn ∧ (withdrawSpot s).mem = s.mem ∧ (withdrawSpot s).readData = s.readData ∧
    (withdrawSpot s).tick = s.tick ∧ (withdrawSpot s).pending = s.pending := by
  unfold withdrawSpot
  simp

@[simp] theorem pushSpot_keeps (w : SpotWrite) :
    (pushSpot w s).ctl = s.ctl ∧ (pushSpot w s).wk = s.wk ∧ (pushSpot w s).eng = s.eng ∧ (pushSpot w s).arb = s.arb ∧
    (pushSpot w s).jrn = s.jrn ∧ (pushSpot w s).mir = s.mir ∧ (pushSpot w s).out = s.out ∧ (pushSpot w s).atn = s.atn ∧
    (pushSpot w s).mem = s.mem ∧ (pushSpot w s).readData = s.readData ∧ (pushSpot w s).tick = s.tick ∧
    (pushSpot w s).pending = s.pending := by
  unfold pushSpot
  (repeat' split) <;> simp

@[simp] theorem pushSpots_keeps (ws : List SpotWrite) :
    (pushSpots ws s).ctl = s.ctl ∧ (pushSpots ws s).wk = s.wk ∧ (pushSpots ws s).eng = s.eng ∧ (pushSpots ws s).arb = s.arb ∧
    (pushSpots ws s).jrn = s.jrn ∧ (pushSpots ws s).mir = s.mir ∧ (pushSpots ws s).out = s.out ∧ (pushSpots ws s).atn = s.atn ∧
    (pushSpots ws s).mem = s.mem ∧ (pushSpots ws s).readData = s.readData ∧ (pushSpots ws s).tick = s.tick ∧
    (pushSpots ws s).pending = s.pending := by
  induction ws generalizing s with
  | nil => simp [pushSpots]
  | cons x xs ih =>
    unfold pushSpots
    (repeat' split) <;> simp [ih]

@[simp] theorem nextSpotWrite_keeps :
    (nextSpotWrite s).ctl = s.ctl ∧ (nextSpotWrite s).wk = s.wk ∧ (nextSpotWrite s).eng = s.eng ∧
    (nextSpotWrite s).arb = s.arb ∧ (nextSpotWrite s).jrn = s.jrn ∧ (nextSpotWrite s).mir = s.mir ∧
    (nextSpotWrite s).out = s.out ∧ (nextSpotWrite s).atn = s.atn ∧ (nextSpotWrite s).mem = s.mem ∧
    (nextSpotWrite s).readData = s.readData ∧ (nextSpotWrite s).tick = s.tick ∧ (nextSpotWrite s).pending = s.pending := by
  unfold nextSpotWrite
  (repeat' split) <;> simp

@[simp] theorem State.setBusy_keeps (p : PointId) (b : Bool) :
    (s.setBusy p b).ctl = s.ctl ∧ (s.setBusy p b).port = s.port ∧ (s.setBusy p b).wk = s.wk ∧ (s.setBusy p b).arb = s.arb ∧
    (s.setBusy p b).jrn = s.jrn ∧ (s.setBusy p b).spt = s.spt ∧ (s.setBusy p b).mir = s.mir ∧ (s.setBusy p b).out = s.out ∧
    (s.setBusy p b).atn = s.atn ∧ (s.setBusy p b).mem = s.mem ∧ (s.setBusy p b).readData = s.readData ∧
    (s.setBusy p b).tick = s.tick ∧ (s.setBusy p b).pending = s.pending := by
  unfold State.setBusy
  simp

@[simp] theorem endSpot_keeps (h : SpotHeld) (c : ResultCode) (v : Word) (ps : List Word) :
    (endSpot h c v ps s).ctl = s.ctl ∧ (endSpot h c v ps s).wk = s.wk ∧ (endSpot h c v ps s).arb = s.arb ∧
    (endSpot h c v ps s).jrn = s.jrn ∧ (endSpot h c v ps s).mir = s.mir ∧ (endSpot h c v ps s).out = s.out ∧
    (endSpot h c v ps s).atn = s.atn ∧ (endSpot h c v ps s).mem = s.mem ∧ (endSpot h c v ps s).readData = s.readData ∧
    (endSpot h c v ps s).tick = s.tick ∧ (endSpot h c v ps s).pending = s.pending := by
  unfold endSpot
  simp

@[simp] theorem orderSpotEnd_keeps (c : ResultCode) :
    (orderSpotEnd c s).ctl = s.ctl ∧ (orderSpotEnd c s).wk = s.wk ∧ (orderSpotEnd c s).jrn = s.jrn ∧
    (orderSpotEnd c s).mir = s.mir ∧ (orderSpotEnd c s).out = s.out ∧ (orderSpotEnd c s).atn = s.atn ∧
    (orderSpotEnd c s).mem = s.mem ∧ (orderSpotEnd c s).readData = s.readData ∧ (orderSpotEnd c s).tick = s.tick ∧
    (orderSpotEnd c s).pending = s.pending := by
  unfold orderSpotEnd
  (repeat' split) <;> simp

@[simp] theorem acceptSpot_keeps (h : Held) (p : PointId) (m : Nat) :
    (acceptSpot h p m s).ctl = s.ctl ∧ (acceptSpot h p m s).jrn = s.jrn ∧ (acceptSpot h p m s).mir = s.mir ∧
    (acceptSpot h p m s).out = s.out ∧ (acceptSpot h p m s).atn = s.atn ∧ (acceptSpot h p m s).mem = s.mem ∧
    (acceptSpot h p m s).readData = s.readData ∧ (acceptSpot h p m s).tick = s.tick ∧
    (acceptSpot h p m s).pending = s.pending := by
  unfold acceptSpot
  simp

@[simp] theorem spotConversion_keeps (c : Half) :
    (spotConversion c s).ctl = s.ctl ∧ (spotConversion c s).wk = s.wk ∧ (spotConversion c s).jrn = s.jrn ∧
    (spotConversion c s).mir = s.mir ∧ (spotConversion c s).out = s.out ∧ (spotConversion c s).atn = s.atn ∧
    (spotConversion c s).mem = s.mem ∧ (spotConversion c s).readData = s.readData ∧ (spotConversion c s).tick = s.tick ∧
    (spotConversion c s).pending = s.pending := by
  unfold spotConversion
  dsimp only
  (repeat' split) <;> simp

/-! ### The mirror writer -/

@[simp] theorem issueImage_keeps (i : Image) (b : Bool) :
    (issueImage i b s).ctl = s.ctl ∧ (issueImage i b s).wk = s.wk ∧ (issueImage i b s).eng = s.eng ∧
    (issueImage i b s).arb = s.arb ∧ (issueImage i b s).jrn = s.jrn ∧ (issueImage i b s).spt = s.spt ∧
    (issueImage i b s).out = s.out ∧ (issueImage i b s).atn = s.atn ∧ (issueImage i b s).mem = s.mem ∧
    (issueImage i b s).readData = s.readData ∧ (issueImage i b s).tick = s.tick ∧ (issueImage i b s).pending = s.pending := by
  unfold issueImage
  simp

/-- With no write in progress a captured image is issued at once. -/
theorem capture_issues {s : State} (h : s.mir.writing = none) (b : Bool) : capture b s = issueImage (captureImage s) b s := by
  simp only [capture, takeImage, h]
  rfl

@[simp] theorem capture_keeps (b : Bool) :
    (capture b s).ctl = s.ctl ∧ (capture b s).wk = s.wk ∧ (capture b s).eng = s.eng ∧ (capture b s).arb = s.arb ∧
    (capture b s).jrn = s.jrn ∧ (capture b s).spt = s.spt ∧ (capture b s).out = s.out ∧ (capture b s).atn = s.atn ∧
    (capture b s).mem = s.mem ∧ (capture b s).readData = s.readData ∧
    (capture b s).pending = s.pending := by
  simp [capture]

@[simp] theorem State.eventBegun_keeps :
    s.eventBegun.ctl = s.ctl ∧ s.eventBegun.port = s.port ∧ s.eventBegun.wk = s.wk ∧ s.eventBegun.eng = s.eng ∧
    s.eventBegun.arb = s.arb ∧ s.eventBegun.jrn = s.jrn ∧ s.eventBegun.spt = s.spt ∧ s.eventBegun.out = s.out ∧
    s.eventBegun.atn = s.atn ∧ s.eventBegun.mem = s.mem ∧ s.eventBegun.readData = s.readData ∧ s.eventBegun.tick = s.tick ∧
    s.eventBegun.pending = s.pending := by
  simp [State.eventBegun]

/-- The points as an event of the scan engine finds them. -/
@[simp] theorem State.eventBegun_point (p : PointId) : s.eventBegun.point p = s.point p := rfl

/-- What an event of the scan engine leaves of every unit but the mirror writer is what its work leaves. -/
@[simp] theorem scanEvent_units (f : State → State) :
    (scanEvent f s).ctl = (f s.eventBegun).ctl ∧ (scanEvent f s).wk = (f s.eventBegun).wk ∧
    (scanEvent f s).eng = (f s.eventBegun).eng ∧ (scanEvent f s).arb = (f s.eventBegun).arb ∧
    (scanEvent f s).jrn = (f s.eventBegun).jrn ∧ (scanEvent f s).spt = (f s.eventBegun).spt ∧
    (scanEvent f s).out = (f s.eventBegun).out ∧ (scanEvent f s).atn = (f s.eventBegun).atn ∧
    (scanEvent f s).mem = (f s.eventBegun).mem ∧ (scanEvent f s).readData = (f s.eventBegun).readData ∧
    (scanEvent f s).pending = (f s.eventBegun).pending := by
  simp [scanEvent]

@[simp] theorem nextImage_keeps :
    (nextImage s).ctl = s.ctl ∧ (nextImage s).wk = s.wk ∧ (nextImage s).eng = s.eng ∧ (nextImage s).arb = s.arb ∧
    (nextImage s).jrn = s.jrn ∧ (nextImage s).spt = s.spt ∧ (nextImage s).out = s.out ∧ (nextImage s).mem = s.mem ∧
    (nextImage s).readData = s.readData ∧ (nextImage s).tick = s.tick ∧ (nextImage s).pending = s.pending := by
  unfold nextImage
  dsimp only
  (repeat' split) <;> simp

/-! ### Requests -/

@[simp] theorem applyConfigOutput_keeps (h : Held) (n : Fin 8) (l : Line) :
    (applyConfigOutput h n l s).ctl = s.ctl ∧ (applyConfigOutput h n l s).eng = s.eng ∧
    (applyConfigOutput h n l s).arb = s.arb ∧ (applyConfigOutput h n l s).jrn = s.jrn ∧
    (applyConfigOutput h n l s).spt = s.spt ∧ (applyConfigOutput h n l s).mir = s.mir ∧
    (applyConfigOutput h n l s).atn = s.atn ∧ (applyConfigOutput h n l s).mem = s.mem ∧
    (applyConfigOutput h n l s).readData = s.readData ∧ (applyConfigOutput h n l s).tick = s.tick ∧
    (applyConfigOutput h n l s).pending = s.pending := by
  unfold applyConfigOutput
  simp

@[simp] theorem applySetOutputs_keeps (h : Held) (n : BitVec 8) (l : Vector Bool 8) :
    (applySetOutputs h n l s).ctl = s.ctl ∧ (applySetOutputs h n l s).eng = s.eng ∧ (applySetOutputs h n l s).arb = s.arb ∧
    (applySetOutputs h n l s).jrn = s.jrn ∧ (applySetOutputs h n l s).spt = s.spt ∧ (applySetOutputs h n l s).mir = s.mir ∧
    (applySetOutputs h n l s).atn = s.atn ∧ (applySetOutputs h n l s).mem = s.mem ∧
    (applySetOutputs h n l s).readData = s.readData ∧ (applySetOutputs h n l s).tick = s.tick ∧
    (applySetOutputs h n l s).pending = s.pending := by
  unfold applySetOutputs
  (repeat' split) <;> simp

@[simp] theorem applyGivePages_keeps (h : Held) (l : List Word) :
    (applyGivePages h l s).ctl = s.ctl ∧ (applyGivePages h l s).eng = s.eng ∧ (applyGivePages h l s).arb = s.arb ∧
    (applyGivePages h l s).spt = s.spt ∧ (applyGivePages h l s).mir = s.mir ∧ (applyGivePages h l s).out = s.out ∧
    (applyGivePages h l s).atn = s.atn ∧ (applyGivePages h l s).mem = s.mem ∧ (applyGivePages h l s).readData = s.readData ∧
    (applyGivePages h l s).tick = s.tick ∧ (applyGivePages h l s).pending = s.pending := by
  unfold applyGivePages
  (repeat' split) <;> simp

@[simp] theorem applyReclaimPages_keeps (h : Held) (l : Nat) :
    (applyReclaimPages h l s).ctl = s.ctl ∧ (applyReclaimPages h l s).eng = s.eng ∧ (applyReclaimPages h l s).arb = s.arb ∧
    (applyReclaimPages h l s).spt = s.spt ∧ (applyReclaimPages h l s).mir = s.mir ∧ (applyReclaimPages h l s).out = s.out ∧
    (applyReclaimPages h l s).atn = s.atn ∧ (applyReclaimPages h l s).mem = s.mem ∧
    (applyReclaimPages h l s).readData = s.readData ∧ (applyReclaimPages h l s).tick = s.tick ∧
    (applyReclaimPages h l s).pending = s.pending := by
  unfold applyReclaimPages
  simp

@[simp] theorem applyFlushJournal_keeps (h : Held) :
    (applyFlushJournal h s).ctl = s.ctl ∧ (applyFlushJournal h s).eng = s.eng ∧ (applyFlushJournal h s).arb = s.arb ∧
    (applyFlushJournal h s).spt = s.spt ∧ (applyFlushJournal h s).mir = s.mir ∧ (applyFlushJournal h s).out = s.out ∧
    (applyFlushJournal h s).atn = s.atn ∧ (applyFlushJournal h s).mem = s.mem ∧ (applyFlushJournal h s).readData = s.readData ∧
    (applyFlushJournal h s).tick = s.tick ∧ (applyFlushJournal h s).pending = s.pending := by
  unfold applyFlushJournal
  (repeat' split) <;> simp

@[simp] theorem abortSpotOn_keeps (p : PointId) :
    (abortSpotOn p s).ctl = s.ctl ∧ (abortSpotOn p s).wk = s.wk ∧ (abortSpotOn p s).jrn = s.jrn ∧
    (abortSpotOn p s).mir = s.mir ∧ (abortSpotOn p s).out = s.out ∧ (abortSpotOn p s).atn = s.atn ∧
    (abortSpotOn p s).mem = s.mem ∧ (abortSpotOn p s).readData = s.readData ∧ (abortSpotOn p s).tick = s.tick ∧
    (abortSpotOn p s).pending = s.pending := by
  unfold abortSpotOn
  (repeat' split) <;> simp

@[simp] theorem applyConfigPoint_keeps (h : Held) (p : PointId) (c : Settings) :
    (applyConfigPoint h p c s).ctl = s.ctl ∧ (applyConfigPoint h p c s).jrn = s.jrn ∧ (applyConfigPoint h p c s).mir = s.mir ∧
    (applyConfigPoint h p c s).atn = s.atn ∧ (applyConfigPoint h p c s).mem = s.mem ∧
    (applyConfigPoint h p c s).readData = s.readData ∧ (applyConfigPoint h p c s).tick = s.tick ∧
    (applyConfigPoint h p c s).pending = s.pending := by
  unfold applyConfigPoint
  simp

@[simp] theorem applyReleasePoint_keeps (h : Held) (p : PointId) :
    (applyReleasePoint h p s).ctl = s.ctl ∧ (applyReleasePoint h p s).jrn = s.jrn ∧ (applyReleasePoint h p s).mir = s.mir ∧
    (applyReleasePoint h p s).atn = s.atn ∧ (applyReleasePoint h p s).mem = s.mem ∧
    (applyReleasePoint h p s).readData = s.readData ∧ (applyReleasePoint h p s).tick = s.tick ∧
    (applyReleasePoint h p s).pending = s.pending := by
  unfold applyReleasePoint
  simp

@[simp] theorem applyConfigGroup_keeps (h : Held) (i : Fin 4) (g : Group) :
    (applyConfigGroup h i g s).ctl = s.ctl ∧ (applyConfigGroup h i g s).arb = s.arb ∧ (applyConfigGroup h i g s).jrn = s.jrn ∧
    (applyConfigGroup h i g s).spt = s.spt ∧ (applyConfigGroup h i g s).mir = s.mir ∧ (applyConfigGroup h i g s).out = s.out ∧
    (applyConfigGroup h i g s).atn = s.atn ∧ (applyConfigGroup h i g s).mem = s.mem ∧
    (applyConfigGroup h i g s).readData = s.readData ∧ (applyConfigGroup h i g s).tick = s.tick ∧
    (applyConfigGroup h i g s).pending = s.pending := by
  unfold applyConfigGroup
  (repeat' split) <;> simp

@[simp] theorem applySetTiming_keeps (h : Held) (t : Timing) :
    (applySetTiming h t s).ctl = s.ctl ∧ (applySetTiming h t s).arb = s.arb ∧ (applySetTiming h t s).spt = s.spt ∧
    (applySetTiming h t s).mir = s.mir ∧ (applySetTiming h t s).out = s.out ∧ (applySetTiming h t s).atn = s.atn ∧
    (applySetTiming h t s).mem = s.mem ∧ (applySetTiming h t s).readData = s.readData ∧ (applySetTiming h t s).tick = s.tick ∧
    (applySetTiming h t s).pending = s.pending := by
  unfold applySetTiming
  (repeat' split) <;> simp

@[simp] theorem applyRecalibrate_keeps (h : Held) (x : PointSet) :
    (applyRecalibrate h x s).ctl = s.ctl ∧ (applyRecalibrate h x s).arb = s.arb ∧ (applyRecalibrate h x s).jrn = s.jrn ∧
    (applyRecalibrate h x s).spt = s.spt ∧ (applyRecalibrate h x s).mir = s.mir ∧ (applyRecalibrate h x s).out = s.out ∧
    (applyRecalibrate h x s).atn = s.atn ∧ (applyRecalibrate h x s).mem = s.mem ∧
    (applyRecalibrate h x s).readData = s.readData ∧ (applyRecalibrate h x s).tick = s.tick ∧
    (applyRecalibrate h x s).pending = s.pending := by
  unfold applyRecalibrate
  simp

@[simp] theorem applyReseed_keeps (h : Held) (x : PointSet) :
    (applyReseed h x s).ctl = s.ctl ∧ (applyReseed h x s).arb = s.arb ∧ (applyReseed h x s).jrn = s.jrn ∧
    (applyReseed h x s).spt = s.spt ∧ (applyReseed h x s).mir = s.mir ∧ (applyReseed h x s).out = s.out ∧
    (applyReseed h x s).atn = s.atn ∧ (applyReseed h x s).mem = s.mem ∧ (applyReseed h x s).readData = s.readData ∧
    (applyReseed h x s).tick = s.tick ∧ (applyReseed h x s).pending = s.pending := by
  unfold applyReseed
  simp

@[simp] theorem applySnapshot_keeps (h : Held) (b : Word) (x : PointSet) :
    (applySnapshot h b x s).ctl = s.ctl ∧ (applySnapshot h b x s).eng = s.eng ∧ (applySnapshot h b x s).arb = s.arb ∧
    (applySnapshot h b x s).jrn = s.jrn ∧ (applySnapshot h b x s).mir = s.mir ∧ (applySnapshot h b x s).out = s.out ∧
    (applySnapshot h b x s).atn = s.atn ∧ (applySnapshot h b x s).mem = s.mem ∧ (applySnapshot h b x s).readData = s.readData ∧
    (applySnapshot h b x s).tick = s.tick ∧ (applySnapshot h b x s).pending = s.pending := by
  unfold applySnapshot
  (repeat' split) <;> simp

@[simp] theorem applyMark_keeps (h : Held) (t : Half) :
    (applyMark h t s).ctl = s.ctl ∧ (applyMark h t s).arb = s.arb ∧ (applyMark h t s).jrn = s.jrn ∧
    (applyMark h t s).spt = s.spt ∧ (applyMark h t s).mir = s.mir ∧ (applyMark h t s).out = s.out ∧
    (applyMark h t s).atn = s.atn ∧ (applyMark h t s).mem = s.mem ∧ (applyMark h t s).readData = s.readData ∧
    (applyMark h t s).tick = s.tick ∧ (applyMark h t s).pending = s.pending := by
  unfold applyMark
  (repeat' split) <;> simp

@[simp] theorem applySpot_keeps (h : Held) (p : PointId) (m : Nat) :
    (applySpot h p m s).ctl = s.ctl ∧ (applySpot h p m s).jrn = s.jrn ∧ (applySpot h p m s).mir = s.mir ∧
    (applySpot h p m s).out = s.out ∧ (applySpot h p m s).atn = s.atn ∧ (applySpot h p m s).mem = s.mem ∧
    (applySpot h p m s).readData = s.readData ∧ (applySpot h p m s).tick = s.tick ∧
    (applySpot h p m s).pending = s.pending := by
  unfold applySpot
  (repeat' split) <;> simp

@[simp] theorem applyBoundary_keeps (h : Held) (r : Request) :
    (applyBoundary h r s).ctl = s.ctl ∧ (applyBoundary h r s).mir = s.mir ∧ (applyBoundary h r s).atn = s.atn ∧
    (applyBoundary h r s).mem = s.mem ∧ (applyBoundary h r s).readData = s.readData ∧ (applyBoundary h r s).tick = s.tick ∧
    (applyBoundary h r s).pending = s.pending := by
  unfold applyBoundary
  (repeat' split) <;> simp

@[simp] theorem applyWaiting_keeps :
    (applyWaiting s).ctl = s.ctl ∧ (applyWaiting s).mir = s.mir ∧ (applyWaiting s).atn = s.atn ∧ (applyWaiting s).mem = s.mem ∧
    (applyWaiting s).readData = s.readData ∧ (applyWaiting s).tick = s.tick ∧ (applyWaiting s).pending = s.pending := by
  unfold applyWaiting
  (repeat' split) <;> simp

@[simp] theorem applyReached_keeps :
    (applyReached s).ctl = s.ctl ∧ (applyReached s).mir = s.mir ∧ (applyReached s).atn = s.atn ∧ (applyReached s).mem = s.mem ∧
    (applyReached s).readData = s.readData ∧ (applyReached s).tick = s.tick ∧ (applyReached s).pending = s.pending := by
  unfold applyReached
  split <;> simp

@[simp] theorem reachEngine_keeps :
    (reachEngine s).ctl = s.ctl ∧ (reachEngine s).mir = s.mir ∧ (reachEngine s).atn = s.atn ∧ (reachEngine s).mem = s.mem ∧
    (reachEngine s).readData = s.readData ∧ (reachEngine s).tick = s.tick ∧ (reachEngine s).pending = s.pending := by
  unfold reachEngine
  (repeat' split) <;> simp

/-! ### Frames -/

/-- A request that has reached the engine has nothing more to reach. -/
@[simp] theorem Walker.reached_reached (w : Walker) : w.reached.reached = w.reached := by
  obtain ⟨st, a, l, b⟩ := w
  cases st with
  | awaiting h ph => cases ph <;> rfl
  | _ => rfl

@[simp] theorem startSlot_keeps (p : PointId) :
    (startSlot p s).ctl = s.ctl ∧ (startSlot p s).port = s.port ∧ (startSlot p s).wk = s.wk.reached ∧ (startSlot p s).jrn = s.jrn ∧
    (startSlot p s).spt = s.spt ∧ (startSlot p s).mir = s.mir ∧ (startSlot p s).atn = s.atn ∧ (startSlot p s).mem = s.mem ∧
    (startSlot p s).readData = s.readData ∧ (startSlot p s).tick = s.tick ∧ (startSlot p s).pending = s.pending := by
  unfold startSlot
  (repeat' split) <;> simp

@[simp] theorem runSlots_keeps (ps : List PointId) :
    (runSlots ps s).ctl = s.ctl ∧ (runSlots ps s).port = s.port ∧ (runSlots ps s).jrn = s.jrn ∧
    (runSlots ps s).spt = s.spt ∧ (runSlots ps s).mir = s.mir ∧ (runSlots ps s).atn = s.atn ∧ (runSlots ps s).mem = s.mem ∧
    (runSlots ps s).readData = s.readData ∧ (runSlots ps s).tick = s.tick ∧ (runSlots ps s).pending = s.pending := by
  induction ps generalizing s with
  | nil => simp [runSlots]
  | cons x xs ih =>
    unfold runSlots
    (repeat' split) <;> simp [ih]

/-- The slots of a frame do nothing to the walker but for a request that it has passed. -/
theorem runSlots_wk (ps : List PointId) : (runSlots ps s).wk = s.wk ∨ (runSlots ps s).wk = s.wk.reached := by
  induction ps generalizing s with
  | nil => exact .inl rfl
  | cons x xs ih =>
    unfold runSlots
    split
    · exact .inr (by simp)
    · exact ih s

@[simp] theorem reportGap_keeps :
    (reportGap s).ctl = s.ctl ∧ (reportGap s).wk = s.wk ∧ (reportGap s).arb = s.arb ∧ (reportGap s).spt = s.spt ∧
    (reportGap s).mir = s.mir ∧ (reportGap s).out = s.out ∧ (reportGap s).atn = s.atn ∧ (reportGap s).mem = s.mem ∧
    (reportGap s).readData = s.readData ∧ (reportGap s).tick = s.tick ∧ (reportGap s).pending = s.pending := by
  unfold reportGap
  (repeat' split) <;> simp

@[simp] theorem reportMark_keeps :
    (reportMark s).ctl = s.ctl ∧ (reportMark s).wk = s.wk ∧ (reportMark s).arb = s.arb ∧ (reportMark s).spt = s.spt ∧
    (reportMark s).mir = s.mir ∧ (reportMark s).out = s.out ∧ (reportMark s).atn = s.atn ∧ (reportMark s).mem = s.mem ∧
    (reportMark s).readData = s.readData ∧ (reportMark s).tick = s.tick ∧ (reportMark s).pending = s.pending := by
  unfold reportMark
  (repeat' split) <;> simp

@[simp] theorem enterFrame_keeps :
    (enterFrame s).ctl = s.ctl ∧ (enterFrame s).port = s.port ∧ (enterFrame s).wk = s.wk.reached ∧ (enterFrame s).arb = s.arb ∧
    (enterFrame s).jrn = s.jrn ∧ (enterFrame s).spt = s.spt ∧ (enterFrame s).mir = s.mir ∧ (enterFrame s).out = s.out ∧
    (enterFrame s).atn = s.atn ∧ (enterFrame s).mem = s.mem ∧ (enterFrame s).readData = s.readData ∧
    (enterFrame s).tick = s.tick ∧ (enterFrame s).pending = s.pending := by
  unfold enterFrame
  simp

@[simp] theorem beginFrame_keeps :
    (beginFrame s).ctl = s.ctl ∧ (beginFrame s).wk = s.wk.reached ∧ (beginFrame s).spt = s.spt ∧ (beginFrame s).mir = s.mir ∧
    (beginFrame s).atn = s.atn ∧ (beginFrame s).mem = s.mem ∧ (beginFrame s).readData = s.readData ∧
    (beginFrame s).tick = s.tick ∧ (beginFrame s).pending = s.pending := by
  unfold beginFrame
  have h := runSlots_wk (reportMark (reportGap (enterFrame s))) (List.finRange 32)
  simp_all

@[simp] theorem skipFrame_keeps :
    (skipFrame s).ctl = s.ctl ∧ (skipFrame s).arb = s.arb ∧ (skipFrame s).jrn = s.jrn ∧ (skipFrame s).spt = s.spt ∧
    (skipFrame s).out = s.out ∧ (skipFrame s).atn = s.atn ∧ (skipFrame s).mem = s.mem ∧ (skipFrame s).readData = s.readData ∧
    (skipFrame s).pending = s.pending := by
  unfold skipFrame
  simp

@[simp] theorem admissionCheck_keeps :
    (admissionCheck s).ctl = s.ctl ∧ (admissionCheck s).spt = s.spt ∧ (admissionCheck s).mem = s.mem ∧
    (admissionCheck s).readData = s.readData ∧ (admissionCheck s).pending = s.pending := by
  have h := askRoom_keeps s s.eng.reservation
  unfold admissionCheck
  generalize askRoom s.eng.reservation s = x at h
  obtain ⟨b, s'⟩ := x
  cases b <;> simp_all

@[simp] theorem expiriesInFrame_keeps (n : Nat) :
    (expiriesInFrame n s).ctl = s.ctl ∧ (expiriesInFrame n s).port = s.port ∧ (expiriesInFrame n s).wk = s.wk ∧
    (expiriesInFrame n s).arb = s.arb ∧ (expiriesInFrame n s).jrn = s.jrn ∧ (expiriesInFrame n s).spt = s.spt ∧
    (expiriesInFrame n s).mir = s.mir ∧ (expiriesInFrame n s).out = s.out ∧ (expiriesInFrame n s).atn = s.atn ∧
    (expiriesInFrame n s).mem = s.mem ∧ (expiriesInFrame n s).readData = s.readData ∧
    (expiriesInFrame n s).tick = s.tick ∧ (expiriesInFrame n s).pending = s.pending := by
  induction n generalizing s with
  | zero => simp [expiriesInFrame]
  | succ n ih =>
    unfold expiriesInFrame
    split <;> simp [ih]

@[simp] theorem addMerged_keeps :
    (addMerged s).ctl = s.ctl ∧ (addMerged s).port = s.port ∧ (addMerged s).wk = s.wk ∧ (addMerged s).arb = s.arb ∧
    (addMerged s).jrn = s.jrn ∧ (addMerged s).spt = s.spt ∧ (addMerged s).mir = s.mir ∧ (addMerged s).out = s.out ∧
    (addMerged s).atn = s.atn ∧ (addMerged s).mem = s.mem ∧ (addMerged s).readData = s.readData ∧
    (addMerged s).tick = s.tick ∧ (addMerged s).pending = s.pending := by
  unfold addMerged
  simp

@[simp] theorem expiriesCounted_keeps (n : Nat) :
    (expiriesCounted n s).ctl = s.ctl ∧ (expiriesCounted n s).port = s.port ∧ (expiriesCounted n s).wk = s.wk ∧
    (expiriesCounted n s).arb = s.arb ∧ (expiriesCounted n s).jrn = s.jrn ∧ (expiriesCounted n s).spt = s.spt ∧
    (expiriesCounted n s).mir = s.mir ∧ (expiriesCounted n s).out = s.out ∧ (expiriesCounted n s).atn = s.atn ∧
    (expiriesCounted n s).mem = s.mem ∧ (expiriesCounted n s).readData = s.readData ∧
    (expiriesCounted n s).tick = s.tick ∧ (expiriesCounted n s).pending = s.pending := by
  unfold expiriesCounted
  simp

@[simp] theorem leaveScanning_keeps (x : EndExpiries) :
    (leaveScanning x s).ctl = s.ctl ∧ (leaveScanning x s).arb = s.arb ∧ (leaveScanning x s).spt = s.spt ∧
    (leaveScanning x s).out = s.out ∧ (leaveScanning x s).atn = s.atn ∧ (leaveScanning x s).mem = s.mem ∧
    (leaveScanning x s).readData = s.readData ∧
    (leaveScanning x s).pending = s.pending := by
  unfold leaveScanning
  simp

@[simp] theorem leaveCut_keeps :
    (leaveCut s).ctl = s.ctl ∧ (leaveCut s).arb = s.arb ∧ (leaveCut s).spt = s.spt ∧ (leaveCut s).mir = s.mir ∧
    (leaveCut s).out = s.out ∧ (leaveCut s).atn = s.atn ∧ (leaveCut s).mem = s.mem ∧ (leaveCut s).readData = s.readData ∧
    (leaveCut s).tick = s.tick ∧ (leaveCut s).pending = s.pending := by
  unfold leaveCut
  simp

@[simp] theorem endFrame_keeps :
    (endFrame s).ctl = s.ctl ∧ (endFrame s).atn = s.atn ∧ (endFrame s).mem = s.mem ∧
    (endFrame s).readData = s.readData ∧ (endFrame s).pending = s.pending := by
  unfold endFrame
  simp

@[simp] theorem finishPlain_keeps :
    (finishPlain s).ctl = s.ctl ∧ (finishPlain s).mem = s.mem ∧ (finishPlain s).readData = s.readData ∧
    (finishPlain s).pending = s.pending := by
  unfold finishPlain
  dsimp only
  (repeat' split) <;> simp

/-- An expiry keeps what the finishing of the frame it may admit keeps. -/
theorem expire_keeps {finish : List EndExpiries → State → List EndExpiries × State}
    (h : ∀ (l : List EndExpiries) (x : State), (finish l x).2.ctl = x.ctl ∧ (finish l x).2.mem = x.mem ∧
      (finish l x).2.readData = x.readData ∧ (finish l x).2.pending = x.pending)
    (ends : List EndExpiries) :
    (expire finish ends s).2.ctl = s.ctl ∧ (expire finish ends s).2.mem = s.mem ∧
    (expire finish ends s).2.readData = s.readData ∧
    (expire finish ends s).2.pending = s.pending := by
  unfold expire
  (repeat' split) <;> simp [h]

/-- Expiries keep what the finishing of the frames they may admit keeps. -/
theorem expireTimes_keeps {finish : List EndExpiries → State → List EndExpiries × State}
    (h : ∀ (l : List EndExpiries) (x : State), (finish l x).2.ctl = x.ctl ∧ (finish l x).2.mem = x.mem ∧
      (finish l x).2.readData = x.readData ∧ (finish l x).2.pending = x.pending)
    (n : Nat) (ends : List EndExpiries) :
    (expireTimes finish n ends s).2.ctl = s.ctl ∧ (expireTimes finish n ends s).2.mem = s.mem ∧
    (expireTimes finish n ends s).2.readData = s.readData ∧
    (expireTimes finish n ends s).2.pending = s.pending := by
  induction n generalizing s ends with
  | zero => simp [expireTimes]
  | succ n ih =>
    have h' := expire_keeps s h ends
    unfold expireTimes
    simp [ih, h']

@[simp] theorem finishFrame_keeps (fuel : Nat) (ends : List EndExpiries) :
    (finishFrame fuel ends s).2.ctl = s.ctl ∧ (finishFrame fuel ends s).2.mem = s.mem ∧
    (finishFrame fuel ends s).2.readData = s.readData ∧
    (finishFrame fuel ends s).2.pending = s.pending := by
  induction fuel generalizing s ends with
  | zero => simp [finishFrame]
  | succ n ih =>
    have he (m : Nat) (l : List EndExpiries) (x : State) := expireTimes_keeps x (finish := finishFrame n) (fun l x => ih x l) m l
    cases ends with
    | nil => simp [finishFrame]
    | cons x xs =>
      unfold finishFrame
      dsimp only
      (repeat' split) <;> simp [ih, he]

@[simp] theorem cutEnd_keeps :
    (cutEnd s).ctl = s.ctl ∧ (cutEnd s).mir = s.mir ∧ (cutEnd s).atn = s.atn ∧ (cutEnd s).mem = s.mem ∧
    (cutEnd s).readData = s.readData ∧ (cutEnd s).tick = s.tick ∧ (cutEnd s).pending = s.pending := by
  unfold cutEnd
  simp

@[simp] theorem frameExpiry_keeps (ends : List EndExpiries) :
    (frameExpiry ends s).ctl = s.ctl ∧ (frameExpiry ends s).mem = s.mem ∧ (frameExpiry ends s).readData = s.readData ∧
    (frameExpiry ends s).pending = s.pending :=
  expire_keeps s (fun l x => finishFrame_keeps x ends.length l) ends

@[simp] theorem appendSome_keeps (r : Option Record) :
    (appendSome r s).ctl = s.ctl ∧ (appendSome r s).wk = s.wk ∧ (appendSome r s).eng = s.eng ∧ (appendSome r s).arb = s.arb ∧
    (appendSome r s).spt = s.spt ∧ (appendSome r s).mir = s.mir ∧ (appendSome r s).out = s.out ∧ (appendSome r s).atn = s.atn ∧
    (appendSome r s).mem = s.mem ∧ (appendSome r s).readData = s.readData ∧ (appendSome r s).tick = s.tick ∧
    (appendSome r s).pending = s.pending := by
  unfold appendSome
  (repeat' split) <;> simp

@[simp] theorem raiseTrip_keeps (p : PointId) (k : Option TripKind) :
    (raiseTrip p k s).ctl = s.ctl ∧ (raiseTrip p k s).port = s.port ∧ (raiseTrip p k s).wk = s.wk ∧
    (raiseTrip p k s).eng = s.eng ∧ (raiseTrip p k s).arb = s.arb ∧ (raiseTrip p k s).jrn = s.jrn ∧
    (raiseTrip p k s).spt = s.spt ∧ (raiseTrip p k s).mir = s.mir ∧ (raiseTrip p k s).out = s.out ∧
    (raiseTrip p k s).mem = s.mem ∧ (raiseTrip p k s).readData = s.readData ∧ (raiseTrip p k s).tick = s.tick ∧
    (raiseTrip p k s).pending = s.pending := by
  unfold raiseTrip
  (repeat' split) <;> simp

@[simp] theorem measurePoint_keeps (p : PointId) (c : Half) :
    (measurePoint p c s).ctl = s.ctl ∧ (measurePoint p c s).wk = s.wk ∧ (measurePoint p c s).arb = s.arb ∧
    (measurePoint p c s).spt = s.spt ∧ (measurePoint p c s).mir = s.mir ∧ (measurePoint p c s).mem = s.mem ∧
    (measurePoint p c s).readData = s.readData ∧ (measurePoint p c s).tick = s.tick ∧
    (measurePoint p c s).pending = s.pending := by
  unfold measurePoint
  dsimp only
  simp

@[simp] theorem scanConversion_keeps (c : Half) (ends : List EndExpiries) :
    (scanConversion c ends s).ctl = s.ctl ∧ (scanConversion c ends s).mem = s.mem ∧
    (scanConversion c ends s).readData = s.readData ∧
    (scanConversion c ends s).pending = s.pending := by
  unfold scanConversion
  dsimp only
  (repeat' split) <;> simp

@[simp] theorem stopScan_keeps :
    (stopScan s).ctl = s.ctl ∧ (stopScan s).mir = s.mir ∧ (stopScan s).atn = s.atn ∧ (stopScan s).mem = s.mem ∧
    (stopScan s).readData = s.readData ∧ (stopScan s).tick = s.tick ∧ (stopScan s).pending = s.pending := by
  unfold stopScan
  dsimp only
  (repeat' split) <;> simp

/-! ### The control unit -/

@[simp] theorem startLoading_keeps :
    (startLoading s).wk = s.wk ∧ (startLoading s).eng = s.eng ∧ (startLoading s).arb = s.arb ∧ (startLoading s).jrn = s.jrn ∧
    (startLoading s).spt = s.spt ∧ (startLoading s).mir = s.mir ∧ (startLoading s).out = s.out ∧ (startLoading s).atn = s.atn ∧
    (startLoading s).mem = s.mem ∧ (startLoading s).readData = s.readData ∧ (startLoading s).tick = s.tick ∧
    (startLoading s).pending = s.pending := by
  unfold startLoading
  simp

@[simp] theorem enterRunning_keeps (b : Vector Word 8) :
    (enterRunning b s).port = s.port ∧ (enterRunning b s).arb = s.arb ∧ (enterRunning b s).jrn = s.jrn ∧
    (enterRunning b s).spt = s.spt ∧ (enterRunning b s).mir = s.mir ∧ (enterRunning b s).out = s.out ∧
    (enterRunning b s).atn = s.atn ∧ (enterRunning b s).mem = s.mem ∧ (enterRunning b s).readData = s.readData ∧
    (enterRunning b s).tick = s.tick ∧ (enterRunning b s).pending = s.pending := by
  unfold enterRunning
  simp

@[simp] theorem refuseHeader_keeps :
    (refuseHeader s).port = s.port ∧ (refuseHeader s).wk = s.wk ∧ (refuseHeader s).eng = s.eng ∧ (refuseHeader s).arb = s.arb ∧
    (refuseHeader s).jrn = s.jrn ∧ (refuseHeader s).spt = s.spt ∧ (refuseHeader s).mir = s.mir ∧ (refuseHeader s).out = s.out ∧
    (refuseHeader s).mem = s.mem ∧ (refuseHeader s).readData = s.readData ∧ (refuseHeader s).tick = s.tick ∧
    (refuseHeader s).pending = s.pending := by
  unfold refuseHeader
  simp

@[simp] theorem stopWalker_keeps :
    (stopWalker s).ctl = s.ctl ∧ (stopWalker s).eng = s.eng ∧ (stopWalker s).arb = s.arb ∧ (stopWalker s).jrn = s.jrn ∧
    (stopWalker s).spt = s.spt ∧ (stopWalker s).mir = s.mir ∧ (stopWalker s).out = s.out ∧ (stopWalker s).atn = s.atn ∧
    (stopWalker s).mem = s.mem ∧ (stopWalker s).readData = s.readData ∧ (stopWalker s).tick = s.tick ∧
    (stopWalker s).pending = s.pending := by
  unfold stopWalker
  dsimp only
  (repeat' split) <;> simp

@[simp] theorem stopOrder_keeps :
    (stopOrder s).mir = s.mir ∧ (stopOrder s).atn = s.atn ∧ (stopOrder s).mem = s.mem ∧ (stopOrder s).readData = s.readData ∧
    (stopOrder s).tick = s.tick ∧ (stopOrder s).pending = s.pending := by
  unfold stopOrder
  simp

@[simp] theorem resumeRunning_keeps :
    (resumeRunning s).arb = s.arb ∧ (resumeRunning s).jrn = s.jrn ∧ (resumeRunning s).spt = s.spt ∧
    (resumeRunning s).mir = s.mir ∧ (resumeRunning s).out = s.out ∧ (resumeRunning s).atn = s.atn ∧
    (resumeRunning s).mem = s.mem ∧ (resumeRunning s).readData = s.readData ∧ (resumeRunning s).tick = s.tick ∧
    (resumeRunning s).pending = s.pending := by
  unfold resumeRunning
  simp

@[simp] theorem acceptControl_keeps (l : Bool) :
    (acceptControl l s).eng = s.eng ∧ (acceptControl l s).arb = s.arb ∧ (acceptControl l s).jrn = s.jrn ∧
    (acceptControl l s).spt = s.spt ∧ (acceptControl l s).mir = s.mir ∧ (acceptControl l s).out = s.out ∧
    (acceptControl l s).atn = s.atn ∧ (acceptControl l s).mem = s.mem ∧ (acceptControl l s).readData = s.readData ∧
    (acceptControl l s).tick = s.tick ∧ (acceptControl l s).pending = s.pending := by
  unfold acceptControl
  (repeat' split) <;> simp

@[simp] theorem changeRun_keeps :
    (changeRun s).mir = s.mir ∧ (changeRun s).atn = s.atn ∧ (changeRun s).mem = s.mem ∧ (changeRun s).readData = s.readData ∧
    (changeRun s).tick = s.tick ∧ (changeRun s).pending = s.pending := by
  unfold changeRun
  (repeat' split) <;> simp

@[simp] theorem enterStopped_keeps :
    (enterStopped s).wk = s.wk ∧ (enterStopped s).eng = s.eng ∧ (enterStopped s).arb = s.arb ∧ (enterStopped s).jrn = s.jrn ∧
    (enterStopped s).spt = s.spt ∧ (enterStopped s).out = s.out ∧ (enterStopped s).atn = s.atn ∧ (enterStopped s).mem = s.mem ∧
    (enterStopped s).readData = s.readData ∧ (enterStopped s).tick = s.tick ∧ (enterStopped s).pending = s.pending := by
  unfold enterStopped
  split
  · rename_i h
    have hm : s.mir.writing = none := by simpa [State.settled] using (Bool.and_eq_true_iff.1 h.2).2
    simp [capture_issues (s := s.setCtl { s.ctl with op := .stopped }) hm]
  · simp

/-! ### Port events -/

@[simp] theorem takeLink_keeps (l : Word) :
    (takeLink l s).ctl = s.ctl ∧ (takeLink l s).eng = s.eng ∧ (takeLink l s).arb = s.arb ∧ (takeLink l s).jrn = s.jrn ∧
    (takeLink l s).spt = s.spt ∧ (takeLink l s).mir = s.mir ∧ (takeLink l s).out = s.out ∧ (takeLink l s).atn = s.atn ∧
    (takeLink l s).mem = s.mem ∧ (takeLink l s).readData = s.readData ∧ (takeLink l s).tick = s.tick ∧
    (takeLink l s).pending = s.pending := by
  unfold takeLink
  (repeat' split) <;> simp

@[simp] theorem takeBlock_keeps (a : Word) (b : Vector Word 16) :
    (takeBlock a b s).ctl = s.ctl ∧ (takeBlock a b s).eng = s.eng ∧ (takeBlock a b s).arb = s.arb ∧
    (takeBlock a b s).jrn = s.jrn ∧ (takeBlock a b s).spt = s.spt ∧ (takeBlock a b s).mir = s.mir ∧
    (takeBlock a b s).out = s.out ∧ (takeBlock a b s).atn = s.atn ∧ (takeBlock a b s).mem = s.mem ∧
    (takeBlock a b s).readData = s.readData ∧ (takeBlock a b s).tick = s.tick ∧ (takeBlock a b s).pending = s.pending := by
  unfold takeBlock
  (repeat' split) <;> simp

@[simp] theorem goOnByClass_keeps (h : Held) :
    (goOnByClass h s).ctl = s.ctl ∧ (goOnByClass h s).eng = s.eng ∧ (goOnByClass h s).arb = s.arb ∧
    (goOnByClass h s).jrn = s.jrn ∧ (goOnByClass h s).spt = s.spt ∧ (goOnByClass h s).mir = s.mir ∧
    (goOnByClass h s).out = s.out ∧ (goOnByClass h s).atn = s.atn ∧ (goOnByClass h s).mem = s.mem ∧
    (goOnByClass h s).readData = s.readData ∧ (goOnByClass h s).tick = s.tick ∧ (goOnByClass h s).pending = s.pending := by
  unfold goOnByClass
  (repeat' split) <;> simp

@[simp] theorem notifyIf_keeps (f : Byte) :
    (notifyIf f s).ctl = s.ctl ∧ (notifyIf f s).port = s.port ∧ (notifyIf f s).wk = s.wk ∧ (notifyIf f s).eng = s.eng ∧
    (notifyIf f s).arb = s.arb ∧ (notifyIf f s).jrn = s.jrn ∧ (notifyIf f s).spt = s.spt ∧ (notifyIf f s).mir = s.mir ∧
    (notifyIf f s).out = s.out ∧ (notifyIf f s).mem = s.mem ∧ (notifyIf f s).readData = s.readData ∧
    (notifyIf f s).tick = s.tick ∧ (notifyIf f s).pending = s.pending := by
  unfold notifyIf
  (repeat' split) <;> simp

@[simp] theorem moveOn_keeps (h : Held) :
    (moveOn h s).ctl = s.ctl ∧ (moveOn h s).eng = s.eng ∧ (moveOn h s).arb = s.arb ∧ (moveOn h s).jrn = s.jrn ∧
    (moveOn h s).spt = s.spt ∧ (moveOn h s).mir = s.mir ∧ (moveOn h s).out = s.out ∧ (moveOn h s).atn = s.atn ∧
    (moveOn h s).mem = s.mem ∧ (moveOn h s).readData = s.readData ∧ (moveOn h s).tick = s.tick ∧
    (moveOn h s).pending = s.pending := by
  unfold moveOn
  (repeat' split) <;> simp

@[simp] theorem acceptWaitingSpot_keeps :
    (acceptWaitingSpot s).ctl = s.ctl ∧ (acceptWaitingSpot s).jrn = s.jrn ∧ (acceptWaitingSpot s).mir = s.mir ∧
    (acceptWaitingSpot s).out = s.out ∧ (acceptWaitingSpot s).atn = s.atn ∧ (acceptWaitingSpot s).mem = s.mem ∧
    (acceptWaitingSpot s).readData = s.readData ∧ (acceptWaitingSpot s).tick = s.tick ∧
    (acceptWaitingSpot s).pending = s.pending := by
  unfold acceptWaitingSpot
  (repeat' split) <;> simp

@[simp] theorem spotClosed_keeps :
    (spotClosed s).ctl = s.ctl ∧ (spotClosed s).jrn = s.jrn ∧ (spotClosed s).mir = s.mir ∧ (spotClosed s).out = s.out ∧
    (spotClosed s).mem = s.mem ∧ (spotClosed s).readData = s.readData ∧ (spotClosed s).tick = s.tick ∧
    (spotClosed s).pending = s.pending := by
  unfold spotClosed
  (repeat' split) <;> simp

@[simp] theorem snapshotDone_keeps (n : Nat) :
    (snapshotDone n s).ctl = s.ctl ∧ (snapshotDone n s).eng = s.eng ∧ (snapshotDone n s).arb = s.arb ∧
    (snapshotDone n s).jrn = s.jrn ∧ (snapshotDone n s).spt = s.spt ∧ (snapshotDone n s).mir = s.mir ∧
    (snapshotDone n s).out = s.out ∧ (snapshotDone n s).atn = s.atn ∧ (snapshotDone n s).mem = s.mem ∧
    (snapshotDone n s).readData = s.readData ∧ (snapshotDone n s).tick = s.tick ∧ (snapshotDone n s).pending = s.pending := by
  unfold snapshotDone
  (repeat' split) <;> simp

@[simp] theorem pageClosed_keeps (c : Closing) :
    (pageClosed c s).ctl = s.ctl ∧ (pageClosed c s).eng = s.eng ∧ (pageClosed c s).arb = s.arb ∧ (pageClosed c s).jrn = s.jrn ∧
    (pageClosed c s).spt = s.spt ∧ (pageClosed c s).mir = s.mir ∧ (pageClosed c s).out = s.out ∧ (pageClosed c s).mem = s.mem ∧
    (pageClosed c s).readData = s.readData ∧ (pageClosed c s).tick = s.tick ∧ (pageClosed c s).pending = s.pending := by
  unfold pageClosed
  (repeat' split) <;> simp

/-! ### What the operations on the scan engine leave of it -/

@[simp] theorem State.setPoint_keepsEngine (p : PointId) (x : Point) :
    (s.setPoint p x).eng.groups = s.eng.groups ∧ (s.setPoint p x).eng.timing = s.eng.timing ∧
    (s.setPoint p x).eng.frameTimer = s.eng.frameTimer ∧ (s.setPoint p x).eng.frameNumber = s.eng.frameNumber ∧
    (s.setPoint p x).eng.frameInProgress = s.eng.frameInProgress ∧ (s.setPoint p x).eng.frameState = s.eng.frameState ∧
    (s.setPoint p x).eng.startPending = s.eng.startPending ∧ (s.setPoint p x).eng.merged = s.eng.merged ∧
    (s.setPoint p x).eng.gap = s.eng.gap ∧ (s.setPoint p x).eng.rate = s.eng.rate ∧ (s.setPoint p x).eng.quiet = s.eng.quiet ∧
    (s.setPoint p x).eng.mark = s.eng.mark ∧ (s.setPoint p x).eng.slot = s.eng.slot := by
  unfold State.setPoint
  simp

@[simp] theorem State.updatePoint_keepsEngine (p : PointId) (x : Point) :
    (s.updatePoint p x).eng.groups = s.eng.groups ∧ (s.updatePoint p x).eng.timing = s.eng.timing ∧
    (s.updatePoint p x).eng.frameTimer = s.eng.frameTimer ∧ (s.updatePoint p x).eng.frameNumber = s.eng.frameNumber ∧
    (s.updatePoint p x).eng.frameInProgress = s.eng.frameInProgress ∧ (s.updatePoint p x).eng.frameState = s.eng.frameState ∧
    (s.updatePoint p x).eng.startPending = s.eng.startPending ∧ (s.updatePoint p x).eng.merged = s.eng.merged ∧
    (s.updatePoint p x).eng.gap = s.eng.gap ∧ (s.updatePoint p x).eng.rate = s.eng.rate ∧
    (s.updatePoint p x).eng.quiet = s.eng.quiet ∧ (s.updatePoint p x).eng.mark = s.eng.mark ∧
    (s.updatePoint p x).eng.slot = s.eng.slot := by
  unfold State.updatePoint
  (repeat' split) <;> simp

@[simp] theorem State.setBusy_keepsEngine (p : PointId) (b : Bool) :
    (s.setBusy p b).eng.groups = s.eng.groups ∧ (s.setBusy p b).eng.timing = s.eng.timing ∧
    (s.setBusy p b).eng.frameTimer = s.eng.frameTimer ∧ (s.setBusy p b).eng.frameNumber = s.eng.frameNumber ∧
    (s.setBusy p b).eng.frameInProgress = s.eng.frameInProgress ∧ (s.setBusy p b).eng.frameState = s.eng.frameState ∧
    (s.setBusy p b).eng.startPending = s.eng.startPending ∧ (s.setBusy p b).eng.merged = s.eng.merged ∧
    (s.setBusy p b).eng.gap = s.eng.gap ∧ (s.setBusy p b).eng.rate = s.eng.rate ∧ (s.setBusy p b).eng.quiet = s.eng.quiet ∧
    (s.setBusy p b).eng.mark = s.eng.mark ∧ (s.setBusy p b).eng.slot = s.eng.slot := by
  unfold State.setBusy
  simp

@[simp] theorem grantScan_keepsEngine (p : PointId) :
    (grantScan p s).eng.groups = s.eng.groups ∧ (grantScan p s).eng.timing = s.eng.timing ∧
    (grantScan p s).eng.frameTimer = s.eng.frameTimer ∧ (grantScan p s).eng.frameNumber = s.eng.frameNumber ∧
    (grantScan p s).eng.frameInProgress = s.eng.frameInProgress ∧ (grantScan p s).eng.frameState = s.eng.frameState ∧
    (grantScan p s).eng.startPending = s.eng.startPending ∧ (grantScan p s).eng.merged = s.eng.merged ∧
    (grantScan p s).eng.gap = s.eng.gap ∧ (grantScan p s).eng.rate = s.eng.rate ∧ (grantScan p s).eng.quiet = s.eng.quiet ∧
    (grantScan p s).eng.mark = s.eng.mark ∧ (grantScan p s).eng.slot = s.eng.slot := by
  unfold grantScan
  simp

@[simp] theorem requestScan_keepsEngine (p : PointId) :
    (requestScan p s).eng.groups = s.eng.groups ∧ (requestScan p s).eng.timing = s.eng.timing ∧
    (requestScan p s).eng.frameTimer = s.eng.frameTimer ∧ (requestScan p s).eng.frameNumber = s.eng.frameNumber ∧
    (requestScan p s).eng.frameInProgress = s.eng.frameInProgress ∧ (requestScan p s).eng.frameState = s.eng.frameState ∧
    (requestScan p s).eng.startPending = s.eng.startPending ∧ (requestScan p s).eng.merged = s.eng.merged ∧
    (requestScan p s).eng.gap = s.eng.gap ∧ (requestScan p s).eng.rate = s.eng.rate ∧
    (requestScan p s).eng.quiet = s.eng.quiet ∧ (requestScan p s).eng.mark = s.eng.mark ∧
    (requestScan p s).eng.slot = s.eng.slot := by
  unfold requestScan
  (repeat' split) <;> simp

@[simp] theorem releaseConverter_keepsEngine :
    (releaseConverter s).eng.groups = s.eng.groups ∧ (releaseConverter s).eng.timing = s.eng.timing ∧
    (releaseConverter s).eng.frameTimer = s.eng.frameTimer ∧ (releaseConverter s).eng.frameNumber = s.eng.frameNumber ∧
    (releaseConverter s).eng.frameInProgress = s.eng.frameInProgress ∧ (releaseConverter s).eng.frameState = s.eng.frameState ∧
    (releaseConverter s).eng.startPending = s.eng.startPending ∧ (releaseConverter s).eng.merged = s.eng.merged ∧
    (releaseConverter s).eng.gap = s.eng.gap ∧ (releaseConverter s).eng.rate = s.eng.rate ∧
    (releaseConverter s).eng.quiet = s.eng.quiet ∧ (releaseConverter s).eng.mark = s.eng.mark ∧
    (releaseConverter s).eng.slot = s.eng.slot := by
  unfold releaseConverter
  (repeat' split) <;> simp

@[simp] theorem endSpot_keepsEngine (h : SpotHeld) (c : ResultCode) (v : Word) (ps : List Word) :
    (endSpot h c v ps s).eng.groups = s.eng.groups ∧ (endSpot h c v ps s).eng.timing = s.eng.timing ∧
    (endSpot h c v ps s).eng.frameTimer = s.eng.frameTimer ∧ (endSpot h c v ps s).eng.frameNumber = s.eng.frameNumber ∧
    (endSpot h c v ps s).eng.frameInProgress = s.eng.frameInProgress ∧ (endSpot h c v ps s).eng.frameState = s.eng.frameState ∧
    (endSpot h c v ps s).eng.startPending = s.eng.startPending ∧ (endSpot h c v ps s).eng.merged = s.eng.merged ∧
    (endSpot h c v ps s).eng.gap = s.eng.gap ∧ (endSpot h c v ps s).eng.rate = s.eng.rate ∧
    (endSpot h c v ps s).eng.quiet = s.eng.quiet ∧ (endSpot h c v ps s).eng.mark = s.eng.mark ∧
    (endSpot h c v ps s).eng.slot = s.eng.slot := by
  unfold endSpot
  simp

@[simp] theorem orderSpotEnd_keepsEngine (c : ResultCode) :
    (orderSpotEnd c s).eng.groups = s.eng.groups ∧ (orderSpotEnd c s).eng.timing = s.eng.timing ∧
    (orderSpotEnd c s).eng.frameTimer = s.eng.frameTimer ∧ (orderSpotEnd c s).eng.frameNumber = s.eng.frameNumber ∧
    (orderSpotEnd c s).eng.frameInProgress = s.eng.frameInProgress ∧ (orderSpotEnd c s).eng.frameState = s.eng.frameState ∧
    (orderSpotEnd c s).eng.startPending = s.eng.startPending ∧ (orderSpotEnd c s).eng.merged = s.eng.merged ∧
    (orderSpotEnd c s).eng.gap = s.eng.gap ∧ (orderSpotEnd c s).eng.rate = s.eng.rate ∧
    (orderSpotEnd c s).eng.quiet = s.eng.quiet ∧ (orderSpotEnd c s).eng.mark = s.eng.mark ∧
    (orderSpotEnd c s).eng.slot = s.eng.slot := by
  unfold orderSpotEnd
  (repeat' split) <;> simp

@[simp] theorem acceptSpot_keepsEngine (h : Held) (p : PointId) (m : Nat) :
    (acceptSpot h p m s).eng.groups = s.eng.groups ∧ (acceptSpot h p m s).eng.timing = s.eng.timing ∧
    (acceptSpot h p m s).eng.frameTimer = s.eng.frameTimer ∧ (acceptSpot h p m s).eng.frameNumber = s.eng.frameNumber ∧
    (acceptSpot h p m s).eng.frameInProgress = s.eng.frameInProgress ∧ (acceptSpot h p m s).eng.frameState = s.eng.frameState ∧
    (acceptSpot h p m s).eng.startPending = s.eng.startPending ∧ (acceptSpot h p m s).eng.merged = s.eng.merged ∧
    (acceptSpot h p m s).eng.gap = s.eng.gap ∧ (acceptSpot h p m s).eng.rate = s.eng.rate ∧
    (acceptSpot h p m s).eng.quiet = s.eng.quiet ∧ (acceptSpot h p m s).eng.mark = s.eng.mark ∧
    (acceptSpot h p m s).eng.slot = s.eng.slot := by
  unfold acceptSpot
  simp

@[simp] theorem spotConversion_keepsEngine (c : Half) :
    (spotConversion c s).eng.groups = s.eng.groups ∧ (spotConversion c s).eng.timing = s.eng.timing ∧
    (spotConversion c s).eng.frameTimer = s.eng.frameTimer ∧ (spotConversion c s).eng.frameNumber = s.eng.frameNumber ∧
    (spotConversion c s).eng.frameInProgress = s.eng.frameInProgress ∧ (spotConversion c s).eng.frameState = s.eng.frameState ∧
    (spotConversion c s).eng.startPending = s.eng.startPending ∧ (spotConversion c s).eng.merged = s.eng.merged ∧
    (spotConversion c s).eng.gap = s.eng.gap ∧ (spotConversion c s).eng.rate = s.eng.rate ∧
    (spotConversion c s).eng.quiet = s.eng.quiet ∧ (spotConversion c s).eng.mark = s.eng.mark ∧
    (spotConversion c s).eng.slot = s.eng.slot := by
  unfold spotConversion
  dsimp only
  (repeat' split) <;> simp

@[simp] theorem abortSpotOn_keepsEngine (p : PointId) :
    (abortSpotOn p s).eng.groups = s.eng.groups ∧ (abortSpotOn p s).eng.timing = s.eng.timing ∧
    (abortSpotOn p s).eng.frameTimer = s.eng.frameTimer ∧ (abortSpotOn p s).eng.frameNumber = s.eng.frameNumber ∧
    (abortSpotOn p s).eng.frameInProgress = s.eng.frameInProgress ∧ (abortSpotOn p s).eng.frameState = s.eng.frameState ∧
    (abortSpotOn p s).eng.startPending = s.eng.startPending ∧ (abortSpotOn p s).eng.merged = s.eng.merged ∧
    (abortSpotOn p s).eng.gap = s.eng.gap ∧ (abortSpotOn p s).eng.rate = s.eng.rate ∧
    (abortSpotOn p s).eng.quiet = s.eng.quiet ∧ (abortSpotOn p s).eng.mark = s.eng.mark ∧
    (abortSpotOn p s).eng.slot = s.eng.slot := by
  unfold abortSpotOn
  (repeat' split) <;> simp

@[simp] theorem applyConfigPoint_keepsEngine (h : Held) (p : PointId) (c : Settings) :
    (applyConfigPoint h p c s).eng.groups = s.eng.groups ∧ (applyConfigPoint h p c s).eng.timing = s.eng.timing ∧
    (applyConfigPoint h p c s).eng.frameTimer = s.eng.frameTimer ∧
    (applyConfigPoint h p c s).eng.frameNumber = s.eng.frameNumber ∧
    (applyConfigPoint h p c s).eng.frameInProgress = s.eng.frameInProgress ∧
    (applyConfigPoint h p c s).eng.frameState = s.eng.frameState ∧
    (applyConfigPoint h p c s).eng.startPending = s.eng.startPending ∧ (applyConfigPoint h p c s).eng.merged = s.eng.merged ∧
    (applyConfigPoint h p c s).eng.gap = s.eng.gap ∧ (applyConfigPoint h p c s).eng.rate = s.eng.rate ∧
    (applyConfigPoint h p c s).eng.quiet = s.eng.quiet ∧ (applyConfigPoint h p c s).eng.mark = s.eng.mark ∧
    (applyConfigPoint h p c s).eng.slot = s.eng.slot := by
  unfold applyConfigPoint
  simp

@[simp] theorem applyReleasePoint_keepsEngine (h : Held) (p : PointId) :
    (applyReleasePoint h p s).eng.timing = s.eng.timing ∧ (applyReleasePoint h p s).eng.frameTimer = s.eng.frameTimer ∧
    (applyReleasePoint h p s).eng.frameNumber = s.eng.frameNumber ∧
    (applyReleasePoint h p s).eng.frameInProgress = s.eng.frameInProgress ∧
    (applyReleasePoint h p s).eng.frameState = s.eng.frameState ∧
    (applyReleasePoint h p s).eng.startPending = s.eng.startPending ∧ (applyReleasePoint h p s).eng.merged = s.eng.merged ∧
    (applyReleasePoint h p s).eng.gap = s.eng.gap ∧ (applyReleasePoint h p s).eng.rate = s.eng.rate ∧
    (applyReleasePoint h p s).eng.quiet = s.eng.quiet ∧ (applyReleasePoint h p s).eng.mark = s.eng.mark ∧
    (applyReleasePoint h p s).eng.slot = s.eng.slot := by
  unfold applyReleasePoint
  simp

@[simp] theorem applyConfigGroup_keepsEngine (h : Held) (i : Fin 4) (g : Group) :
    (applyConfigGroup h i g s).eng.points = s.eng.points ∧ (applyConfigGroup h i g s).eng.timing = s.eng.timing ∧
    (applyConfigGroup h i g s).eng.frameTimer = s.eng.frameTimer ∧
    (applyConfigGroup h i g s).eng.frameNumber = s.eng.frameNumber ∧
    (applyConfigGroup h i g s).eng.frameInProgress = s.eng.frameInProgress ∧
    (applyConfigGroup h i g s).eng.frameState = s.eng.frameState ∧
    (applyConfigGroup h i g s).eng.startPending = s.eng.startPending ∧ (applyConfigGroup h i g s).eng.merged = s.eng.merged ∧
    (applyConfigGroup h i g s).eng.gap = s.eng.gap ∧ (applyConfigGroup h i g s).eng.rate = s.eng.rate ∧
    (applyConfigGroup h i g s).eng.quiet = s.eng.quiet ∧ (applyConfigGroup h i g s).eng.mark = s.eng.mark ∧
    (applyConfigGroup h i g s).eng.slot = s.eng.slot := by
  unfold applyConfigGroup
  (repeat' split) <;> simp

@[simp] theorem applySetTiming_keepsEngine (h : Held) (t : Timing) :
    (applySetTiming h t s).eng.points = s.eng.points ∧ (applySetTiming h t s).eng.groups = s.eng.groups ∧
    (applySetTiming h t s).eng.frameTimer = s.eng.frameTimer ∧ (applySetTiming h t s).eng.frameNumber = s.eng.frameNumber ∧
    (applySetTiming h t s).eng.frameInProgress = s.eng.frameInProgress ∧
    (applySetTiming h t s).eng.frameState = s.eng.frameState ∧ (applySetTiming h t s).eng.startPending = s.eng.startPending ∧
    (applySetTiming h t s).eng.merged = s.eng.merged ∧ (applySetTiming h t s).eng.gap = s.eng.gap ∧
    (applySetTiming h t s).eng.mark = s.eng.mark ∧ (applySetTiming h t s).eng.slot = s.eng.slot := by
  unfold applySetTiming
  (repeat' split) <;> simp

@[simp] theorem applyRecalibrate_keepsEngine (h : Held) (x : PointSet) :
    (applyRecalibrate h x s).eng.groups = s.eng.groups ∧ (applyRecalibrate h x s).eng.timing = s.eng.timing ∧
    (applyRecalibrate h x s).eng.frameTimer = s.eng.frameTimer ∧ (applyRecalibrate h x s).eng.frameNumber = s.eng.frameNumber ∧
    (applyRecalibrate h x s).eng.frameInProgress = s.eng.frameInProgress ∧
    (applyRecalibrate h x s).eng.frameState = s.eng.frameState ∧
    (applyRecalibrate h x s).eng.startPending = s.eng.startPending ∧ (applyRecalibrate h x s).eng.merged = s.eng.merged ∧
    (applyRecalibrate h x s).eng.gap = s.eng.gap ∧ (applyRecalibrate h x s).eng.rate = s.eng.rate ∧
    (applyRecalibrate h x s).eng.quiet = s.eng.quiet ∧ (applyRecalibrate h x s).eng.mark = s.eng.mark ∧
    (applyRecalibrate h x s).eng.slot = s.eng.slot := by
  unfold applyRecalibrate
  simp

@[simp] theorem applyReseed_keepsEngine (h : Held) (x : PointSet) :
    (applyReseed h x s).eng.groups = s.eng.groups ∧ (applyReseed h x s).eng.timing = s.eng.timing ∧
    (applyReseed h x s).eng.frameTimer = s.eng.frameTimer ∧ (applyReseed h x s).eng.frameNumber = s.eng.frameNumber ∧
    (applyReseed h x s).eng.frameInProgress = s.eng.frameInProgress ∧ (applyReseed h x s).eng.frameState = s.eng.frameState ∧
    (applyReseed h x s).eng.startPending = s.eng.startPending ∧ (applyReseed h x s).eng.merged = s.eng.merged ∧
    (applyReseed h x s).eng.gap = s.eng.gap ∧ (applyReseed h x s).eng.rate = s.eng.rate ∧
    (applyReseed h x s).eng.quiet = s.eng.quiet ∧ (applyReseed h x s).eng.mark = s.eng.mark ∧
    (applyReseed h x s).eng.slot = s.eng.slot := by
  unfold applyReseed
  simp

@[simp] theorem applyMark_keepsEngine (h : Held) (t : Half) :
    (applyMark h t s).eng.points = s.eng.points ∧ (applyMark h t s).eng.groups = s.eng.groups ∧
    (applyMark h t s).eng.timing = s.eng.timing ∧ (applyMark h t s).eng.frameTimer = s.eng.frameTimer ∧
    (applyMark h t s).eng.frameNumber = s.eng.frameNumber ∧ (applyMark h t s).eng.frameInProgress = s.eng.frameInProgress ∧
    (applyMark h t s).eng.frameState = s.eng.frameState ∧ (applyMark h t s).eng.startPending = s.eng.startPending ∧
    (applyMark h t s).eng.merged = s.eng.merged ∧ (applyMark h t s).eng.gap = s.eng.gap ∧
    (applyMark h t s).eng.rate = s.eng.rate ∧ (applyMark h t s).eng.quiet = s.eng.quiet ∧
    (applyMark h t s).eng.slot = s.eng.slot := by
  unfold applyMark
  (repeat' split) <;> simp

@[simp] theorem applySpot_keepsEngine (h : Held) (p : PointId) (m : Nat) :
    (applySpot h p m s).eng.groups = s.eng.groups ∧ (applySpot h p m s).eng.timing = s.eng.timing ∧
    (applySpot h p m s).eng.frameTimer = s.eng.frameTimer ∧ (applySpot h p m s).eng.frameNumber = s.eng.frameNumber ∧
    (applySpot h p m s).eng.frameInProgress = s.eng.frameInProgress ∧ (applySpot h p m s).eng.frameState = s.eng.frameState ∧
    (applySpot h p m s).eng.startPending = s.eng.startPending ∧ (applySpot h p m s).eng.merged = s.eng.merged ∧
    (applySpot h p m s).eng.gap = s.eng.gap ∧ (applySpot h p m s).eng.rate = s.eng.rate ∧
    (applySpot h p m s).eng.quiet = s.eng.quiet ∧ (applySpot h p m s).eng.mark = s.eng.mark ∧
    (applySpot h p m s).eng.slot = s.eng.slot := by
  unfold applySpot
  (repeat' split) <;> simp

@[simp] theorem applyBoundary_keepsEngine (h : Held) (r : Request) :
    (applyBoundary h r s).eng.frameTimer = s.eng.frameTimer ∧ (applyBoundary h r s).eng.frameNumber = s.eng.frameNumber ∧
    (applyBoundary h r s).eng.frameInProgress = s.eng.frameInProgress ∧
    (applyBoundary h r s).eng.frameState = s.eng.frameState ∧ (applyBoundary h r s).eng.startPending = s.eng.startPending ∧
    (applyBoundary h r s).eng.merged = s.eng.merged ∧ (applyBoundary h r s).eng.gap = s.eng.gap ∧
    (applyBoundary h r s).eng.slot = s.eng.slot := by
  unfold applyBoundary
  (repeat' split) <;> simp

@[simp] theorem applyWaiting_keepsEngine :
    (applyWaiting s).eng.frameTimer = s.eng.frameTimer ∧ (applyWaiting s).eng.frameNumber = s.eng.frameNumber ∧
    (applyWaiting s).eng.frameInProgress = s.eng.frameInProgress ∧ (applyWaiting s).eng.frameState = s.eng.frameState ∧
    (applyWaiting s).eng.startPending = s.eng.startPending ∧ (applyWaiting s).eng.merged = s.eng.merged ∧
    (applyWaiting s).eng.gap = s.eng.gap ∧ (applyWaiting s).eng.slot = s.eng.slot := by
  unfold applyWaiting
  (repeat' split) <;> simp

@[simp] theorem startSlot_keepsEngine (p : PointId) :
    (startSlot p s).eng.groups = s.eng.groups ∧ (startSlot p s).eng.timing = s.eng.timing ∧
    (startSlot p s).eng.frameTimer = s.eng.frameTimer ∧ (startSlot p s).eng.frameNumber = s.eng.frameNumber ∧
    (startSlot p s).eng.frameInProgress = s.eng.frameInProgress ∧ (startSlot p s).eng.frameState = s.eng.frameState ∧
    (startSlot p s).eng.startPending = s.eng.startPending ∧ (startSlot p s).eng.merged = s.eng.merged ∧
    (startSlot p s).eng.gap = s.eng.gap ∧ (startSlot p s).eng.rate = s.eng.rate ∧ (startSlot p s).eng.quiet = s.eng.quiet ∧
    (startSlot p s).eng.mark = s.eng.mark := by
  unfold startSlot
  (repeat' split) <;> simp

@[simp] theorem runSlots_keepsEngine (ps : List PointId) :
    (runSlots ps s).eng.groups = s.eng.groups ∧ (runSlots ps s).eng.timing = s.eng.timing ∧
    (runSlots ps s).eng.frameTimer = s.eng.frameTimer ∧ (runSlots ps s).eng.frameNumber = s.eng.frameNumber ∧
    (runSlots ps s).eng.frameInProgress = s.eng.frameInProgress ∧ (runSlots ps s).eng.frameState = s.eng.frameState ∧
    (runSlots ps s).eng.startPending = s.eng.startPending ∧ (runSlots ps s).eng.merged = s.eng.merged ∧
    (runSlots ps s).eng.gap = s.eng.gap ∧ (runSlots ps s).eng.rate = s.eng.rate ∧ (runSlots ps s).eng.quiet = s.eng.quiet ∧
    (runSlots ps s).eng.mark = s.eng.mark := by
  induction ps generalizing s with
  | nil => simp [runSlots]
  | cons x xs ih =>
    unfold runSlots
    (repeat' split) <;> simp [ih]

@[simp] theorem reportGap_keepsEngine :
    (reportGap s).eng.points = s.eng.points ∧ (reportGap s).eng.groups = s.eng.groups ∧
    (reportGap s).eng.timing = s.eng.timing ∧ (reportGap s).eng.frameTimer = s.eng.frameTimer ∧
    (reportGap s).eng.frameNumber = s.eng.frameNumber ∧ (reportGap s).eng.frameInProgress = s.eng.frameInProgress ∧
    (reportGap s).eng.frameState = s.eng.frameState ∧ (reportGap s).eng.startPending = s.eng.startPending ∧
    (reportGap s).eng.merged = s.eng.merged ∧ (reportGap s).eng.rate = s.eng.rate ∧ (reportGap s).eng.quiet = s.eng.quiet ∧
    (reportGap s).eng.mark = s.eng.mark ∧ (reportGap s).eng.slot = s.eng.slot := by
  unfold reportGap
  (repeat' split) <;> simp

@[simp] theorem reportMark_keepsEngine :
    (reportMark s).eng.points = s.eng.points ∧ (reportMark s).eng.groups = s.eng.groups ∧
    (reportMark s).eng.timing = s.eng.timing ∧ (reportMark s).eng.frameTimer = s.eng.frameTimer ∧
    (reportMark s).eng.frameNumber = s.eng.frameNumber ∧ (reportMark s).eng.frameInProgress = s.eng.frameInProgress ∧
    (reportMark s).eng.frameState = s.eng.frameState ∧ (reportMark s).eng.startPending = s.eng.startPending ∧
    (reportMark s).eng.merged = s.eng.merged ∧ (reportMark s).eng.gap = s.eng.gap ∧ (reportMark s).eng.rate = s.eng.rate ∧
    (reportMark s).eng.quiet = s.eng.quiet ∧ (reportMark s).eng.slot = s.eng.slot := by
  unfold reportMark
  (repeat' split) <;> simp

@[simp] theorem measurePoint_keepsEngine (p : PointId) (c : Half) :
    (measurePoint p c s).eng.groups = s.eng.groups ∧ (measurePoint p c s).eng.timing = s.eng.timing ∧
    (measurePoint p c s).eng.frameTimer = s.eng.frameTimer ∧ (measurePoint p c s).eng.frameNumber = s.eng.frameNumber ∧
    (measurePoint p c s).eng.frameInProgress = s.eng.frameInProgress ∧ (measurePoint p c s).eng.frameState = s.eng.frameState ∧
    (measurePoint p c s).eng.startPending = s.eng.startPending ∧ (measurePoint p c s).eng.merged = s.eng.merged ∧
    (measurePoint p c s).eng.gap = s.eng.gap ∧ (measurePoint p c s).eng.rate = s.eng.rate ∧
    (measurePoint p c s).eng.quiet = s.eng.quiet ∧ (measurePoint p c s).eng.mark = s.eng.mark ∧
    (measurePoint p c s).eng.slot = s.eng.slot := by
  unfold measurePoint
  dsimp only
  simp

@[simp] theorem acceptWaitingSpot_keepsEngine :
    (acceptWaitingSpot s).eng.groups = s.eng.groups ∧ (acceptWaitingSpot s).eng.timing = s.eng.timing ∧
    (acceptWaitingSpot s).eng.frameTimer = s.eng.frameTimer ∧ (acceptWaitingSpot s).eng.frameNumber = s.eng.frameNumber ∧
    (acceptWaitingSpot s).eng.frameInProgress = s.eng.frameInProgress ∧
    (acceptWaitingSpot s).eng.frameState = s.eng.frameState ∧ (acceptWaitingSpot s).eng.startPending = s.eng.startPending ∧
    (acceptWaitingSpot s).eng.merged = s.eng.merged ∧ (acceptWaitingSpot s).eng.gap = s.eng.gap ∧
    (acceptWaitingSpot s).eng.rate = s.eng.rate ∧ (acceptWaitingSpot s).eng.quiet = s.eng.quiet ∧
    (acceptWaitingSpot s).eng.mark = s.eng.mark ∧ (acceptWaitingSpot s).eng.slot = s.eng.slot := by
  unfold acceptWaitingSpot
  (repeat' split) <;> simp

@[simp] theorem spotClosed_keepsEngine :
    (spotClosed s).eng.groups = s.eng.groups ∧ (spotClosed s).eng.timing = s.eng.timing ∧
    (spotClosed s).eng.frameTimer = s.eng.frameTimer ∧ (spotClosed s).eng.frameNumber = s.eng.frameNumber ∧
    (spotClosed s).eng.frameInProgress = s.eng.frameInProgress ∧ (spotClosed s).eng.frameState = s.eng.frameState ∧
    (spotClosed s).eng.startPending = s.eng.startPending ∧ (spotClosed s).eng.merged = s.eng.merged ∧
    (spotClosed s).eng.gap = s.eng.gap ∧ (spotClosed s).eng.rate = s.eng.rate ∧ (spotClosed s).eng.quiet = s.eng.quiet ∧
    (spotClosed s).eng.mark = s.eng.mark ∧ (spotClosed s).eng.slot = s.eng.slot := by
  unfold spotClosed
  (repeat' split) <;> simp

end Sys2Proof.Machine
end

