-- ==== Sys2Proof/Laws/Memory.lean ====
section
/-! SUPPORT. Shared memory as the device's writes leave it: what a put byte reads as, what it leaves alone, and that every operation keeps the canonical form. -/

namespace Sys2Proof.Machine

/-- In canonical form nothing at or below the first address is listed later. -/
theorem Memory.read_of_lt : ∀ {m : List Host.Cell} {a : Nat}, (∀ c ∈ m, a < c.1) → Memory.read m a = none
  | [], _, _ => rfl
  | (x, y) :: rest, a, h => by
    have hx : a < x := h (x, y) (by simp)
    have : a ≠ x := by omega
    simp only [Memory.read, if_neg this]
    exact Memory.read_of_lt fun c hc => h c (by simp [hc])

/-- A byte reads back as it was put. -/
@[simp] theorem Memory.read_put_same : ∀ (m : List Host.Cell) (a : Nat) (b : Byte), Memory.read (Memory.put m a b) a = some b
  | [], a, b => by simp [Memory.put, Memory.read]
  | (x, y) :: rest, a, b => by
    unfold Memory.put
    split
    · simp [Memory.read]
    · split
      · simp [Memory.read]
      · rename_i h1 h2
        simp only [Memory.read, if_neg h2]
        exact Memory.read_put_same rest a b

/-- Putting a byte leaves every other address alone. -/
theorem Memory.read_put_other : ∀ (m : List Host.Cell) {a c : Nat} (b : Byte), c ≠ a → Memory.read (Memory.put m a b) c = Memory.read m c
  | [], a, c, b, h => by simp [Memory.put, Memory.read, h]
  | (x, y) :: rest, a, c, b, h => by
    unfold Memory.put
    split
    · simp [Memory.read, h]
    · split
      · rename_i h1 h2
        subst h2
        simp [Memory.read, h]
      · simp only [Memory.read, Memory.read_put_other rest b h]

/-- Every entry of a memory with a byte put is that byte or an entry from before. -/
theorem Memory.mem_put : ∀ {m : List Host.Cell} {a : Nat} {b : Byte} {c : Host.Cell}, c ∈ Memory.put m a b → c = (a, b) ∨ c ∈ m
  | [], a, b, c, h => by simpa [Memory.put] using h
  | (x, y) :: rest, a, b, c, h => by
    unfold Memory.put at h
    split at h
    · simpa using h
    · split at h
      · rcases List.mem_cons.1 h with h | h
        · exact .inl h
        · exact .inr (List.mem_cons_of_mem _ h)
      · rcases List.mem_cons.1 h with h | h
        · exact .inr (by simp [h])
        · rcases Memory.mem_put h with h | h
          · exact .inl h
          · exact .inr (List.mem_cons_of_mem _ h)

/-- Putting a byte keeps the canonical form. -/
theorem Memory.wf_put : ∀ {m : List Host.Cell} (a : Nat) (b : Byte), Memory.wf m → Memory.wf (Memory.put m a b)
  | [], a, b, _ => by simp [Memory.put, Memory.wf]
  | (x, y) :: rest, a, b, h => by
    obtain ⟨hx, hr⟩ := List.pairwise_cons.1 h
    unfold Memory.put
    split
    · rename_i hlt
      refine List.pairwise_cons.2 ⟨fun c hc => ?_, h⟩
      rcases List.mem_cons.1 hc with rfl | hc
      · exact hlt
      · exact Nat.lt_trans hlt (hx c hc)
    · split
      · rename_i _ heq
        subst heq
        exact List.pairwise_cons.2 ⟨hx, hr⟩
      · rename_i hnlt hne
        refine List.pairwise_cons.2 ⟨fun c hc => ?_, Memory.wf_put a b hr⟩
        rcases Memory.mem_put hc with rfl | hc
        · show x < a
          omega
        · exact hx c hc

/-- Writing a word keeps the canonical form. -/
theorem Memory.wf_putWord {m : List Host.Cell} (a : Nat) (w : Word) (h : Memory.wf m) : Memory.wf (Memory.putWord m a w) :=
  Memory.wf_put _ _ (Memory.wf_put _ _ (Memory.wf_put _ _ (Memory.wf_put _ _ h)))

/-- Writing a burst keeps the canonical form. -/
theorem Memory.wf_putWords : ∀ (ws : List Word) {m : List Host.Cell} (a : Nat), Memory.wf m → Memory.wf (Memory.putWords m a ws)
  | [], _, _, h => h
  | w :: ws, _, a, h => Memory.wf_putWords ws (a + 4) (Memory.wf_putWord a w h)

/-- Writing the words a mask names keeps the canonical form. -/
theorem Memory.wf_putMasked (mask : BitVec 16) (a : Nat) :
    ∀ (ws : List Word) {m : List Host.Cell} (i : Nat), Memory.wf m → Memory.wf (Memory.putMasked m a mask i ws)
  | [], _, _, h => h
  | w :: ws, m, i, h => by
    unfold Memory.putMasked
    exact Memory.wf_putMasked mask a ws (i + 1) (by
      split
      · exact Memory.wf_putWord _ _ h
      · exact h)

/-- Writing a word leaves every address outside its four bytes alone. -/
theorem Memory.read_putWord_other {m : List Host.Cell} {a c : Nat} (w : Word) (h : c < a ∨ a + 4 ≤ c) :
    Memory.read (Memory.putWord m a w) c = Memory.read m c := by
  unfold Memory.putWord
  rw [Memory.read_put_other _ _ (by omega), Memory.read_put_other _ _ (by omega), Memory.read_put_other _ _ (by omega),
    Memory.read_put_other _ _ (by omega)]

/-- Writing a burst leaves every address outside it alone. -/
theorem Memory.read_putWords_other : ∀ (ws : List Word) {m : List Host.Cell} {a c : Nat},
    (c < a ∨ a + 4 * ws.length ≤ c) → Memory.read (Memory.putWords m a ws) c = Memory.read m c
  | [], _, _, _, _ => rfl
  | w :: ws, m, a, c, h => by
    simp only [List.length_cons] at h
    show Memory.read (Memory.putWords (Memory.putWord m a w) (a + 4) ws) c = _
    rw [Memory.read_putWords_other ws (by omega), Memory.read_putWord_other w (by omega)]

/-- A written word reads back byte by byte, least significant byte lowest (R188). -/
theorem Memory.read_putWord_byte (m : List Host.Cell) (a : Nat) (w : Word) {k : Nat} (h : k < 4) :
    Memory.read (Memory.putWord m a w) (a + k) = some (byteOf w k) := by
  unfold Memory.putWord
  have hk : k = 0 ∨ k = 1 ∨ k = 2 ∨ k = 3 := by omega
  rcases hk with rfl | rfl | rfl | rfl
  · rw [Memory.read_put_other _ _ (by omega), Memory.read_put_other _ _ (by omega), Memory.read_put_other _ _ (by omega)]
    exact Memory.read_put_same _ _ _
  · rw [Memory.read_put_other _ _ (by omega), Memory.read_put_other _ _ (by omega)]
    exact Memory.read_put_same _ _ _
  · rw [Memory.read_put_other _ _ (by omega)]
    exact Memory.read_put_same _ _ _
  · exact Memory.read_put_same _ _ _

end Sys2Proof.Machine
end

