-- ==== Sys2Proof/Laws/Commands.lean ====
section
/-! SUPPORT. What the shared operations do, one lemma an operation, stated for the proofs about commands to cite: the memory port, a request carried out by its unit, points and reports, the spot unit's orders, the attention classes, and what a parsed request's operands are known to be. -/

namespace Sys2Proof.Machine

/-! ### The memory port -/

/-- The kind of the access on the interconnect. -/
theorem State.serving_cons {s : State} {a : Access} {rest : List Access} (h : s.port = a :: rest) (k : AccessKind) :
    s.serving k = (a.kind == k) := by
  simp [State.serving, h]

/-- Retiring the access on the interconnect: its words stand in memory and the port keeps the rest. -/
theorem retire_cons {s : State} {a : Access} {rest : List Access} (h : s.port = a :: rest) :
    retire s = (s.setPort rest).setMem (Memory.putWords s.mem a.addr.toNat a.data) := by
  simp [retire, h]

/-- Retiring keeps the canonical form of memory. -/
theorem retire_wf {s : State} (h : Memory.wf s.mem) : Memory.wf (retire s).mem := by
  unfold retire
  split
  · exact Memory.wf_putWords _ _ h
  · exact h

/-- Abandoning the accesses keeps the canonical form of memory, whatever words memory had accepted. -/
theorem abandonAccesses_wf {leaves : Access → Bool} {s : State} (h : Memory.wf s.mem) :
    Memory.wf (abandonAccesses leaves s).mem := by
  unfold abandonAccesses
  split
  · exact Memory.wf_putMasked _ _ _ _ h
  · exact h

/-- Of a write of one word memory accepts none (R36, R37, R155). -/
theorem Access.burstWords_one {a : Access} (h : a.data.length ≤ 1) : a.burstWords = [] := by
  unfold Access.burstWords
  split
  · rename_i e
    simp [e] at h
  · rfl

/-- Abandoning an access of one word, or one that leaves memory as it was, leaves memory as it was. -/
theorem abandonAccesses_leaves {leaves : Access → Bool} {s : State} {a : Access} {rest : List Access} (h : s.port = a :: rest)
    (ha : a.data.length ≤ 1 ∨ leaves a = true) : (abandonAccesses leaves s).mem = s.mem := by
  unfold abandonAccesses
  rw [h]
  rcases ha with ha | ha
  · simp [Access.burstWords_one ha, Memory.putMasked]
  · simp [ha, Memory.putMasked]

/-- An access that a reset abandons whole (R37, R155, R147). -/
theorem Access.LeavesMemory.leaves {a : Access} (h : a.LeavesMemory) : a.data.length ≤ 1 ∨ a.writesHeader = true :=
  h.imp id fun h => by simp [Access.writesHeader, h]

/-- An access that fails whole (R36, R155, R135, R146). -/
theorem Access.FaultLeavesMemory.leaves {a : Access} (h : a.FaultLeavesMemory) :
    a.data.length ≤ 1 ∨ a.closesPage = true :=
  h.imp id fun ⟨hk, ha, w, ws, hd, hw⟩ => by simp [Access.closesPage, Access.writesHeader, hk, ha, hd, hw]

/-- Abandoning with no access in the port changes nothing. -/
theorem abandonAccesses_nil {leaves : Access → Bool} {s : State} (h : s.port = []) : abandonAccesses leaves s = s := by
  unfold abandonAccesses
  rw [h]

/-- After accesses are abandoned the port is empty. -/
theorem abandonAccesses_port (leaves : Access → Bool) (s : State) : (abandonAccesses leaves s).port = [] := by
  unfold abandonAccesses
  split
  · rfl
  · assumption

/-- Receiving at most one access leaves nothing open. -/
theorem receiveTogether_one {s : State} {n : Nat} (h : s.port.length ≤ n + 1) : receiveTogether n s = s := by
  unfold receiveTogether
  rw [if_pos h, if_pos h]
  rfl

/-- A permutation code rearranges a list and neither drops nor repeats an access. -/
theorem permute_perm : ∀ (fuel code : Nat) (l : List Access), l.length = fuel → (permute code fuel l).Perm l
  | 0, _, l, h => by simp [permute, List.length_eq_zero_iff.1 h]
  | fuel + 1, code, l, h => by
    have hl : code % l.length < l.length := Nat.mod_lt _ (by omega)
    unfold permute
    rw [List.getElem?_eq_getElem hl]
    have ih := permute_perm fuel (code / l.length) (l.eraseIdx (code % l.length)) (by
      rw [List.length_eraseIdx_of_lt hl]
      omega)
    refine (ih.cons _).trans ?_
    have e : l.take (code % l.length) ++ l[code % l.length] :: l.drop (code % l.length + 1) = l := by simp
    rw [List.eraseIdx_eq_take_drop_succ]
    exact List.perm_middle.symm.trans (.of_eq e)

/-- Whatever order the port receives accesses in, it holds the same accesses. -/
theorem receiveTogether_perm (n : Nat) (s : State) : (receiveTogether n s).port.Perm s.port := by
  unfold receiveTogether
  dsimp only [State.setTick_port, State.setPort_port]
  split
  · exact .refl _
  · have h := permute_perm (s.port.length - n) (Config.receiveOrder s.tick) (s.port.drop n) (by simp)
    simpa using h.append_left (s.port.take n)

/-! ### Commands that carry out a request -/

/-- Every row of a CONTROL write is the one operation of R178. -/
theorem exec_control {c : Instr} {data : Word} (s : State) (h : controlData c = some data) : exec c s = .next (controlWrite data s) := by
  cases c <;> simp [controlData] at h <;> subst h <;> rfl

/-- A request in WORKING of the command's kind is carried out. -/
theorem workingStep_eq {s t : State} {h : Held} {r : Request} (hw : s.Working h r) {f : Held → Request → Option State}
    (hf : f h r = some t) : workingStep f s = receiveTogether s.port.length t := by
  unfold workingStep State.workingRequest
  simp [hw.1, hw.2, hf]

/-- The walker states that hold a boundary request not yet applied (R31). -/
theorem WalkerState.unapplied_eq {w : WalkerState} {h : Held} :
    w.unapplied = some h ↔ w = .awaiting h .passed ∨ w = .awaiting h .waits := by
  unfold WalkerState.unapplied
  split <;> simp_all

/-- A waiting boundary request is found by the scan engine. -/
theorem State.Awaits.found {s : State} {h : Held} {r : Request} (hw : s.Awaits h r) : s.waitingBoundary = some (h, r) := by
  unfold State.waitingBoundary
  simp [WalkerState.unapplied_eq.2 hw.1, hw.2.1, hw.2.2]

/-- What the scan engine finds waiting is a boundary request the walker holds. -/
theorem State.awaits_of_found {s : State} {h : Held} {r : Request} (hw : s.waitingBoundary = some (h, r)) : s.Awaits h r := by
  unfold State.waitingBoundary at hw
  (repeat' split at hw) <;> simp at hw
  obtain ⟨rfl, rfl⟩ := hw
  exact ⟨WalkerState.unapplied_eq.1 (by assumption), by assumption, by assumption⟩

/-- A boundary request not yet applied, at the engine inside a frame. -/
theorem State.Awaits.reached {s : State} {h : Held} {r : Request} (hw : s.Awaits h r) :
    s.wk.reached = { s.wk with state := .awaiting h .waits } := by
  have h1 := hw.1
  generalize s.wk = w at h1
  obtain ⟨st, a, l, b⟩ := w
  rcases h1 with rfl | rfl <;> rfl

/-- Between frames a waiting boundary request of the command's kind is applied. -/
theorem boundaryStep_eq {s t : State} {h : Held} {r : Request} (hb : s.betweenFrames = true) (hw : s.Awaits h r)
    {f : Held → Request → Option State} (hf : f h r = some t) : boundaryStep f s = receiveTogether s.port.length t := by
  simp [boundaryStep, hw.found, hf, hb]

/-- Inside a frame a boundary request of the command's kind waits for the frame's end (R31, R121). -/
theorem boundaryStep_waits {s t : State} {h : Held} {r : Request} (hb : s.betweenFrames = false) (hw : s.Awaits h r)
    {f : Held → Request → Option State} (hf : f h r = some t) : boundaryStep f s = s.walkTo (.awaiting h .waits) := by
  simp [boundaryStep, hw.found, hf, hb, hw.reached, State.walkTo]

/-- With no request of the command's kind the command changes nothing (log entry 3). -/
theorem boundaryStep_none {s : State} {f : Held → Request → Option State} (hf : ∀ h r, s.Awaits h r → f h r = none) :
    boundaryStep f s = s := by
  unfold boundaryStep
  split
  · rename_i h r hw
    rw [hf h r (State.awaits_of_found hw)]
  · rfl

/-- What holds of the state itself, and of every state the request leads to, holds after the command. -/
theorem workingStep_ind {P : State → Prop} {f : Held → Request → Option State} {s : State} (same : P s)
    (received : ∀ t n, P t → P (receiveTogether n t)) (done : ∀ h r t, s.Working h r → f h r = some t → P t) :
    P (workingStep f s) := by
  unfold workingStep
  split
  · rename_i h r hw
    split
    · rename_i t ht
      refine received _ _ (done h r t ?_ ht)
      unfold State.workingRequest at hw
      (repeat' split at hw) <;> simp at hw
      obtain ⟨rfl, rfl⟩ := hw
      exact ⟨by assumption, by assumption⟩
    · exact same
  · exact same

/-- What holds of the state itself, of the state in which the request waits, and of every state the boundary request leads
to, holds after the command. -/
theorem boundaryStep_ind {P : State → Prop} {f : Held → Request → Option State} {s : State} (same : P s)
    (received : ∀ t n, P t → P (receiveTogether n t))
    (waits : s.betweenFrames = false → P (s.setWk s.wk.reached))
    (done : ∀ h r t, s.betweenFrames = true → s.Awaits h r → f h r = some t → P t) : P (boundaryStep f s) := by
  unfold boundaryStep
  split
  · rename_i h r hw
    have ha := State.awaits_of_found hw
    split
    · rename_i t ht
      split
      · rename_i hb
        exact received _ _ (done h r t hb ha ht)
      · rename_i hb
        exact waits (by simpa using hb)
    · exact same
  · exact same

/-- An answer issues one access. -/
theorem answer_port (h : Held) (a : Answer) (s : State) : (answer h a s).port.length = s.port.length + 1 := by
  simp [answer, issue]

/-- An answer alone leaves no order open. -/
theorem receiveTogether_answer (h : Held) (a : Answer) {s : State} {n : Nat} (hn : s.port.length = n) :
    receiveTogether n (answer h a s) = answer h a s :=
  receiveTogether_one (Nat.le_of_eq ((answer_port h a s).trans (congrArg (· + 1) hn)))

/-! ### Write lists -/

/-- A write joins the end of the journal unit's list, and nothing else of the unit changes. -/
theorem pushJournal_jrn (w : JournalWrite) (s : State) :
    (pushJournal w s).jrn = { s.jrn with writes := s.jrn.writes ++ [w] } := by
  unfold pushJournal
  dsimp only
  split <;> simp [issue]

/-- At most one access is issued when a write joins the journal unit's list. -/
theorem pushJournal_port (w : JournalWrite) (s : State) : (pushJournal w s).port.length ≤ s.port.length + 1 := by
  unfold pushJournal
  dsimp only
  split <;> simp [issue]

/-- A write joins the end of the spot unit's list, and nothing else of the unit changes. -/
theorem pushSpot_spt (w : SpotWrite) (s : State) : (pushSpot w s).spt = { s.spt with writes := s.spt.writes ++ [w] } := by
  unfold pushSpot
  dsimp only
  split <;> simp [issue]

/-- Writes join the end of the spot unit's list in order. -/
theorem pushSpots_spt : ∀ (ws : List SpotWrite) (s : State), (pushSpots ws s).spt = { s.spt with writes := s.spt.writes ++ ws }
  | [], s => by simp [pushSpots]
  | w :: ws, s => by
    unfold pushSpots
    rw [pushSpots_spt ws, pushSpot_spt]
    simp

/-! ### Points and reports -/

/-- An order of receipt leaves every point alone. -/
@[simp] theorem receiveTogether_point (n : Nat) (s : State) (p : PointId) : (receiveTogether n s).point p = s.point p := by
  simp [State.point]

/-- An answer leaves every point alone. -/
@[simp] theorem answer_point (h : Held) (a : Answer) (s : State) (p : PointId) : (answer h a s).point p = s.point p := by
  simp [State.point]

/-- An updated point reads back as it was put. -/
@[simp] theorem State.updatePoint_point (s : State) (p : PointId) (x : Point) : (s.updatePoint p x).point p = x := by
  unfold State.updatePoint
  split <;> simp [State.point, State.setPoint]

/-- Updating a point leaves every other point alone. -/
theorem State.updatePoint_other (s : State) {p q : PointId} (hq : q ≠ p) (x : Point) :
    (s.updatePoint p x).point q = s.point q := by
  have h := State.point_setPoint_other s hq x
  unfold State.updatePoint
  split
  · exact h
  · simpa [State.point] using h

/-- With no entry to FAULTED before the unit a report is taken. -/
theorem OutputUnit.report_take {o : OutputUnit} (h : o.entryAfter = none) (p : PointId) (st : PointState) :
    o.report p st = o.take p st := by
  unfold OutputUnit.report
  rw [h]

/-- A report taken shows in the view, at its point (R160). -/
theorem OutputUnit.take_view (o : OutputUnit) (p q : PointId) (st : PointState) :
    (o.take p st).view[q] = if q = p then st else o.view[q] := by
  by_cases e : q = p
  · subst e
    simp [OutputUnit.take]
  · have : p.val ≠ q.val := fun h => e (Fin.ext h.symm)
    simp [OutputUnit.take, e, Vector.getElem_set_ne _ _ this]

/-- With no entry to FAULTED before the unit its view follows an updated point (R43, R160). -/
theorem State.updatePoint_view (s : State) (p : PointId) (x : Point) (hn : s.out.entryAfter = none)
    (h : s.out.view[p] = (s.point p).state) : (s.updatePoint p x).out.view[p] = x.state := by
  unfold State.updatePoint
  split
  · rename_i e
    exact h.trans e.symm
  · show (s.out.report p x.state).view[p] = x.state
    rw [OutputUnit.report_take hn, OutputUnit.take_view, if_pos rfl]

/-- An order to end the held spot changes no point but for a spot-busy mark. -/
theorem orderSpotEnd_point (c : ResultCode) (s : State) (p : PointId) :
    ∃ b, (orderSpotEnd c s).point p = { s.point p with spotBusy := b } := by
  unfold orderSpotEnd
  split
  · exact ⟨_, rfl⟩
  · rename_i h _
    simp only [endSpot]
    by_cases e : p = h.point
    · subst e
      refine ⟨false, ?_⟩
      simp [State.setBusy, State.point, withdrawSpot, State.setPoint]
    · refine ⟨(s.point p).spotBusy, ?_⟩
      have := State.point_setPoint_other (withdrawSpot s) e { (withdrawSpot s).point h.point with spotBusy := false }
      simp [State.setBusy, State.point] at this ⊢
      rw [this]
  all_goals exact ⟨_, rfl⟩

/-- Ending the spot on a point leaves the point as it was, its spot-busy mark clear (R53). -/
theorem abortSpotOn_point (s : State) (p : PointId) : (abortSpotOn p s).point p = { s.point p with spotBusy := false } := by
  unfold abortSpotOn
  split
  · obtain ⟨b, hb⟩ := orderSpotEnd_point .aborted s p
    simp [State.setBusy, hb]
  · rename_i h
    simp at h
    rw [← h]

/-- A group without a point has its other members. -/
theorem Group.without_members (g : Group) (p q : PointId) :
    inSet (g.without p).members q = (inSet g.members q && decide (q ≠ p)) := by
  unfold Group.without
  split
  · rename_i h
    simp only [inSet, withoutBit, BitVec.getLsbD_and, BitVec.getLsbD_not, BitVec.getLsbD_shiftLeft, BitVec.getLsbD_one]
    by_cases e : q = p
    · subst e
      simp
    · have : q.val ≠ p.val := fun x => e (Fin.ext x)
      simp [e, q.isLt]
      intro _
      omega
  · rename_i h
    by_cases e : q = p
    · subst e
      simp_all
    · simp [e]

/-! ### Attention classes -/

/-- The highest eligible class, told by its priority code. -/
theorem Attention.highest_eq {a : Attention} {k : AttnClass} (h : a.eligible k = true)
    (h' : ∀ j : AttnClass, j.code.toNat < k.code.toNat → a.eligible j = false) : a.highest = some k := by
  have := h' .fault
  have := h' .trip
  have := h' .journal
  have := h' .chain
  cases k <;> simp_all [Attention.highest, AttnClass.all, AttnClass.code]

/-- No class is eligible. -/
theorem Attention.highest_none {a : Attention} (h : ∀ j : AttnClass, a.eligible j = false) : a.highest = none := by
  simp [Attention.highest, AttnClass.all, h]

/-- The highest class in service, told by its priority code. -/
theorem Attention.serving_eq {a : Attention} {k : AttnClass} (h : (a.cls k).inService = true)
    (h' : ∀ j : AttnClass, j.code.toNat < k.code.toNat → (a.cls j).inService = false) : a.serving = some k := by
  have := h' .fault
  have := h' .trip
  have := h' .journal
  have := h' .chain
  cases k <;> simp_all [Attention.serving, AttnClass.all, AttnClass.code]

/-! ### What a parsed request's operands are known to be (R28) -/

/-- A block passes the walker's checks exactly when its kind and contents do. -/
theorem parse_eq_ok {b : Vector Word 16} {r : Request} : parse b = .ok r ↔ contentOf b = some (some r) := by
  unfold parse
  split <;> simp_all

/-- A block of no request kind is refused with BAD_KIND. -/
theorem parse_eq_badKind {b : Vector Word 16} (h : contentOf b = none) : parse b = .error .badKind := by
  simp [parse, h]

/-- A value read from a range lies in it. -/
theorem inRange_some {lo hi n m : Nat} (h : inRange lo hi n = some m) : m = n ∧ lo ≤ m ∧ m ≤ hi := by
  unfold inRange at h
  split at h
  · simp at h
    omega
  · simp at h

/-- A CONFIG_POINT that passes its checks carries settings in the ranges of R39. -/
theorem configPointOf_inRange {b : Vector Word 16} {p : PointId} {cfg : Settings}
    (h : configPointOf b = some (.configPoint p cfg)) : cfg.InRange := by
  obtain ⟨_, _, h⟩ := Option.bind_eq_some_iff.1 h
  obtain ⟨i, hi, h⟩ := Option.bind_eq_some_iff.1 h
  obtain ⟨_, _, h⟩ := Option.bind_eq_some_iff.1 h
  obtain ⟨_, _, h⟩ := Option.bind_eq_some_iff.1 h
  obtain ⟨t, ht, h⟩ := Option.bind_eq_some_iff.1 h
  obtain ⟨a, ha, h⟩ := Option.bind_eq_some_iff.1 h
  obtain ⟨_, _, h⟩ := Option.bind_eq_some_iff.1 h
  obtain ⟨th, hth, h⟩ := Option.bind_eq_some_iff.1 h
  obtain ⟨hy, hhy, h⟩ := Option.bind_eq_some_iff.1 h
  obtain ⟨en, hen, h⟩ := Option.bind_eq_some_iff.1 h
  obtain ⟨ex, hex, h⟩ := Option.bind_eq_some_iff.1 h
  obtain ⟨sb, hsb, h⟩ := Option.bind_eq_some_iff.1 h
  obtain ⟨fb, hfb, h⟩ := Option.bind_eq_some_iff.1 h
  obtain ⟨_, _, h⟩ := Option.bind_eq_some_iff.1 h
  obtain ⟨_, _, h⟩ := Option.bind_eq_some_iff.1 h
  obtain ⟨_, _, h⟩ := Option.bind_eq_some_iff.1 h
  injection h with h
  injection h with _ e
  subst e
  have := inRange_some hi
  have := inRange_some ht
  have := inRange_some ha
  have := inRange_some hth
  have := inRange_some hhy
  have := inRange_some hen
  have := inRange_some hex
  have := inRange_some hsb
  have := inRange_some hfb
  have := (blockHalf b 36).isLt
  simp only [Settings.InRange]
  omega

/-- A CONFIG_GROUP that passes its checks has a weight of at most 512 and a reference that is a member. -/
theorem configGroupOf_ok {b : Vector Word 16} {i : Fin 4} {g : Group} (h : configGroupOf b = some (.configGroup i g)) :
    g.weight ≤ 512 ∧ ∀ p, g.reference = some p → inSet g.members p = true := by
  obtain ⟨_, _, h⟩ := Option.bind_eq_some_iff.1 h
  obtain ⟨ref, hr, h⟩ := Option.bind_eq_some_iff.1 h
  obtain ⟨_, _, h⟩ := Option.bind_eq_some_iff.1 h
  obtain ⟨w, hw, e⟩ := Option.bind_eq_some_iff.1 h
  split at e
  · rename_i hm
    simp at e
    obtain ⟨rfl, rfl⟩ := e
    refine ⟨(inRange_some hw).2.2, fun p hp => ?_⟩
    simp at hp
    subst hp
    simpa using hm
  · simp at e

/-- A GIVE_PAGES that passes its checks carries one to eight different pages, each at a page address (R139, R14). -/
theorem givePagesOf_ok {b : Vector Word 16} {pages : List Word} (h : givePagesOf b = some (.givePages pages)) :
    pages.Nodup ∧ ∀ a ∈ pages, a ≠ 0 ∧ a.toNat % 4096 = 0 := by
  simp only [givePagesOf] at h
  split at h
  · rename_i hc
    simp at h
    subst h
    refine ⟨hc.2.2.2, fun a ha => ?_⟩
    have := List.all_eq_true.1 hc.2.2.1 a ha
    simpa [pageAligned] using this
  · simp at h

/-! ### Counts -/

/-- The saturated counts (R46). -/
theorem isSaturated_iff (c : Half) : isSaturated c = true ↔ c = 0 ∨ c = 0xFFFF := by
  unfold isSaturated
  simp

end Sys2Proof.Machine
end

