-- ==== Sys2Proof/Laws/Rules.lean ====
section
/-! SUPPORT. That the shared operations do what the effects of Safety.lean spell out: one lemma an operation, for the proofs about the commands that compose them to cite. -/

namespace Sys2Proof.Machine

/-! ### The journal unit -/

/-- The journal unit's fields read back from a page closed. -/
theorem closePage_jrn {s : State} {page : OpenPage} (h : s.jrn.page = some page) (cause : CloseCause) :
    (closePage cause s).jrn = s.jrn.closed page cause := by
  unfold closePage
  rw [h]
  simp [pushJournal_jrn, Journal.closed]

/-- With no page in the slot a closing changes nothing. -/
theorem closePage_none {s : State} (h : s.jrn.page = none) (cause : CloseCause) : closePage cause s = s := by
  unfold closePage
  rw [h]

/-- A record's writes join the list: one, or two where it crosses a 64-byte block. -/
theorem pushRecord_jrn (a : Word) (words : List Word) (s : State) :
    (pushRecord a words s).jrn = { s.jrn with writes := s.jrn.writes ++ recordWrites a words } := by
  unfold pushRecord recordWrites
  split <;> simp [pushJournal_jrn]

/-- The number of words of a record. -/
theorem Record.words_length (r : Record) (sequence frame : Word) : 4 * (r.words sequence frame).length = r.size := by
  unfold Record.words Record.size
  cases r.long <;> simp

/-- A record appended to the page in the slot. -/
theorem append_jrn {s : State} {page : OpenPage} (h : s.jrn.page = some page) (r : Record) :
    (append r s).jrn = s.jrn.appended page (r.words (s.jrn.recordSeq + 1) s.eng.frameInProgress) := by
  unfold append
  rw [h]
  simp only [pushRecord_jrn, Journal.appended, Record.words_length, State.setJrn_jrn]

/-- With no page in the slot nothing is appended. -/
theorem append_none {s : State} (h : s.jrn.page = none) (r : Record) : append r s = s := by
  unfold append
  rw [h]

/-- The front page of the queue enters the slot. -/
theorem openPage_jrn (a : Word) (rest : List Word) (s : State) :
    (admitted (openPage a rest s)).jrn = s.jrn.opened a rest s.eng.frameNumber := by
  simp [admitted, openPage, pushJournal_jrn, Journal.opened, Journal.freshPage]

/-- The journal unit is told that the frame is over: R134's table. -/
theorem journalFrameOver_jrn (s : State) : s.jrn.FrameOver (journalFrameOver s).jrn := by
  unfold journalFrameOver Journal.FrameOver
  dsimp only
  refine ⟨fun hm => ?_, fun hm => ?_, fun hm => ?_⟩ <;> rw [hm] <;> rcases hp : s.jrn.page with _ | page
  · simp [writeCount, ← hm]
  · by_cases hg : page.grew = true <;> simp [hg, writeCount, pushJournal_jrn, ← hm]
  · simp [closePage]
  · simp [closePage, pushJournal_jrn, Journal.closed]
  · simp [hp, Journal.hasRecords]
  · by_cases hc : page.count = 0 <;> simp [hp, hc, Journal.hasRecords, closePage, pushJournal_jrn, Journal.closed]

/-- The walker's part of a frame's end: a FLUSH_JOURNAL that finds no record is answered (R134, R142). -/
theorem journalFrameOver_wk (s : State) : (journalFrameOver s).wk = (match s.wk.state with
    | .workingFlush h =>
      if s.jrn.flushesNothing then { s.wk with state := .closingResult h { code := .done, value := 0, params := [] } } else s.wk
    | _ => s.wk) := by
  unfold journalFrameOver Journal.flushesNothing
  dsimp only
  rcases hp : s.jrn.page with _ | page
  · cases hm : s.jrn.closeMark <;> cases hw : s.wk.state <;>
      simp [hp, writeCount, closePage, Journal.hasRecords, answerFlush, hw, answer, State.walkTo, Answer.done]
  · by_cases hc : page.count = 0 <;> cases hm : s.jrn.closeMark <;> cases hw : s.wk.state <;>
      simp [hc, hp, Journal.hasRecords, answerFlush, hw, answer, State.walkTo, Answer.done]

/-- The journal unit answers "admitted" (R132): the journal unit it leaves, and that its slot then holds a page. -/
theorem askRoom_admits {s : State} (h : s.HasRoom) :
    (askRoom s.eng.reservation s).1 = true ∧
      s.jrn.Admits s.eng.reservation s.eng.frameNumber (askRoom s.eng.reservation s).2.jrn ∧
      (askRoom s.eng.reservation s).2.jrn.page ≠ none ∧ (askRoom s.eng.reservation s).2.atn = s.atn := by
  unfold askRoom Journal.Admits
  rcases hp : s.jrn.page with _ | page
  · rcases hq : s.jrn.queue with _ | ⟨a, rest⟩
    · simp [State.HasRoom, hp, hq] at h
    · simp [openOrStarve, hq, openPage_jrn, Journal.opened]
  · by_cases hr : page.used + s.eng.reservation ≤ 4064
    · have : ¬ 4064 < page.used + s.eng.reservation := by omega
      simp [OpenPage.hasRoom, Config.recordArea, hr, this, admitted, hp]
    · rcases hq : s.jrn.queue with _ | ⟨a, rest⟩
      · simp [State.HasRoom, hp, hq] at h
        omega
      · have hq' : (s.jrn.closed page .full).queue = a :: rest := hq
        have ha : openOrStarve (closePage .full s) = (true, admitted (openPage a rest (closePage .full s))) := by
          simp only [openOrStarve, closePage_jrn hp, hq']
        have : 4064 < page.used + s.eng.reservation := by omega
        simp only [OpenPage.hasRoom, Config.recordArea, hr, decide_false, Bool.false_eq_true, if_false, ha, openPage_jrn,
          closePage_jrn hp]
        simp [this, Journal.opened]

/-- The journal unit answers "starved" (R132, R138): the page without room is closed, the flag set and the cause raised. -/
theorem askRoom_starves {s : State} (h : ¬ s.HasRoom) :
    (askRoom s.eng.reservation s).1 = false ∧
      (s.jrn.page = none → (askRoom s.eng.reservation s).2.jrn = { s.jrn with starved := true }) ∧
      (∀ page, s.jrn.page = some page →
        (askRoom s.eng.reservation s).2.jrn = { s.jrn.closed page .full with starved := true }) ∧
      (askRoom s.eng.reservation s).2.atn = (if s.jrn.starved then s.atn else s.atn.raise .starved) ∧
      (askRoom s.eng.reservation s).2.jrn.page = none ∧ s.jrn.queue = [] := by
  have hq : s.jrn.queue = [] := Decidable.byContradiction fun hq => h (.inl hq)
  have key : ∀ u : State, u.jrn.queue = [] → openOrStarve u = (false, starve u) := fun u hu => by
    simp only [openOrStarve, hu]
  have hs : ∀ u : State, (starve u).jrn = { u.jrn with starved := true } := fun u => by
    unfold starve
    split
    · rename_i e
      rw [← e]
    · simp
  have ha : ∀ u : State, (starve u).atn = (if u.jrn.starved then u.atn else u.atn.raise .starved) := fun u => by
    unfold starve
    split <;> simp [raise]
  unfold askRoom
  rcases hp : s.jrn.page with _ | page
  · simp only [key s hq, hs, ha]
    simp [hp, hq]
  · have hr : ¬ page.used + s.eng.reservation ≤ 4064 := fun hr => h (.inr ⟨page, hp, hr⟩)
    have hq' : (closePage .full s).jrn.queue = [] := by rw [closePage_jrn hp]; exact hq
    simp only [OpenPage.hasRoom, Config.recordArea, hr, decide_false, Bool.false_eq_true, if_false, key _ hq', hs, ha,
      closePage_jrn hp]
    simp [hq, Journal.closed]

/-! ### The layouts -/

/-- A field of the low part of two joined fields. -/
theorem extract_low {n m : Nat} (x : BitVec n) (y : BitVec m) {k l : Nat} (h : k + l ≤ m) :
    (x ++ y).extractLsb' k l = y.extractLsb' k l := by
  apply BitVec.eq_of_getLsbD_eq
  intro i hi
  have : k + i < m := by omega
  simp [BitVec.getLsbD_append, this, hi]

/-- A field of the high part of two joined fields. -/
theorem extract_high {n m : Nat} (x : BitVec n) (y : BitVec m) {k l j : Nat} (h : k = m + j) :
    (x ++ y).extractLsb' k l = x.extractLsb' j l := by
  subst h
  apply BitVec.eq_of_getLsbD_eq
  intro i hi
  have : ¬ m + j + i < m := by omega
  have e : m + j + i - m = j + i := by omega
  simp [BitVec.getLsbD_append, hi, this, e]

/-- The low one of two joined fields. -/
theorem extract_low_whole {n m : Nat} (x : BitVec n) (y : BitVec m) : (x ++ y).extractLsb' 0 m = y := by
  rw [extract_low _ _ (by omega)]
  exact BitVec.extractLsb'_eq_self

/-- The high one of two joined fields. -/
theorem extract_high_whole {n m : Nat} (x : BitVec n) (y : BitVec m) : (x ++ y).extractLsb' m n = x := by
  rw [extract_high (j := 0) _ _ (by omega)]
  exact BitVec.extractLsb'_eq_self

/-- A page header, a record and their codes, field by field (13). -/
theorem journalLayouts : JournalLayouts := by
  refine ⟨fun p closing => ⟨_, _, rfl, ?_, ?_, ?_, ?_, ?_⟩,
    fun r sequence frame => ⟨_, _, _, rfl, ?_, ?_, ?_, ?_, ?_, ?_, ?_, ?_, ?_, ?_, ?_⟩, by decide, by decide⟩ <;> unfold ofHalves
  · rw [extract_low _ _ (by decide), extract_low_whole]
    cases closing <;> simp
  · rw [extract_low _ _ (by decide), extract_high_whole]
    rcases closing with _ | (_ | _ | _) <;> rfl
  · exact extract_high_whole _ _
  · exact extract_low_whole _ _
  · exact extract_high_whole _ _
  · rw [extract_low _ _ (by decide), extract_low _ _ (by decide), extract_low_whole]
  · rw [extract_low _ _ (by decide), extract_low _ _ (by decide), extract_high (j := 0) _ _ (by decide), extract_low _ _ (by decide)]
    rfl
  · simp only [BitVec.getLsbD_append]
    cases r.long <;> simp
  · exact extract_high_whole _ _
  · intro h
    rw [extract_low _ _ (by decide), extract_high_whole, h]
    rfl
  · intro p st h
    rw [extract_low (k := 8) (l := 5) _ _ (by decide), extract_low (k := 13) (l := 3) _ _ (by decide),
      extract_high (j := 0) (l := 5) _ _ (by decide), extract_high (j := 5) (l := 3) _ _ (by decide), h]
    exact ⟨extract_low_whole _ _, extract_high_whole _ _⟩
  · exact extract_low_whole _ _
  · rw [extract_high (j := 0) _ _ (by decide)]
    exact extract_low_whole _ _
  · rw [extract_high (j := 8) _ _ (by decide)]
    exact extract_high_whole _ _
  · rw [extract_low_whole]
    exact BitVec.eq_of_toNat_eq (by simp)
  · exact extract_high_whole _ _

/-- CONTROL as read (R177). -/
theorem controlReads (s : State) : s.ControlReads := by
  unfold State.ControlReads State.readRegister State.readControl
  cases s.ctl.run <;> rfl

/-- The fields of STATUS, where they stand. -/
theorem status_fields (op wk : BitVec 3) (fk : BitVec 2) (dr st rw bl : Bool) (w : Word)
    (h : w = ((fk ++ BitVec.ofBool bl ++ BitVec.ofBool rw ++ BitVec.ofBool st ++ BitVec.ofBool dr : BitVec 6) ++
      ((0 : BitVec 1) ++ wk ++ (0 : BitVec 1) ++ op : BitVec 8) : BitVec 14).setWidth 32) :
    w.extractLsb' 0 3 = op ∧ w.extractLsb' 4 3 = wk ∧ w.getLsbD 8 = dr ∧ w.getLsbD 9 = st ∧ w.getLsbD 10 = rw ∧ w.getLsbD 11 = bl ∧
      w.extractLsb' 12 2 = fk ∧ w.getLsbD 3 = false ∧ w.getLsbD 7 = false ∧ w.extractLsb' 14 18 = 0 := by
  have h' : w = 0#18 ++ ((fk ++ BitVec.ofBool bl ++ BitVec.ofBool rw ++ BitVec.ofBool st ++ BitVec.ofBool dr : BitVec 6) ++
      ((0 : BitVec 1) ++ wk ++ (0 : BitVec 1) ++ op : BitVec 8)) := h.trans (by simp [BitVec.setWidth_eq_append])
  subst h'
  refine ⟨?_, ?_, ?_, ?_, ?_, ?_, ?_, ?_, ?_, extract_high_whole _ _⟩
  · rw [extract_low _ _ (by decide), extract_low _ _ (by decide), extract_low_whole]
  · rw [extract_low _ _ (by decide), extract_low _ _ (by decide), extract_high (j := 1) _ _ (by decide),
      extract_high (j := 0) _ _ (by decide), extract_low_whole]
  · simp only [BitVec.getLsbD_append]; simp
  · simp only [BitVec.getLsbD_append]; simp
  · simp only [BitVec.getLsbD_append]; simp
  · simp only [BitVec.getLsbD_append]; simp
  · rw [extract_low _ _ (by decide), extract_high (j := 4) _ _ (by decide), extract_high (j := 3) _ _ (by decide),
      extract_high (j := 2) _ _ (by decide), extract_high (j := 1) _ _ (by decide), extract_high_whole]
  · simp only [BitVec.getLsbD_append]; simp
  · simp only [BitVec.getLsbD_append]; simp

/-- STATUS as read (R179). -/
theorem statusReads (s : State) : s.StatusReads := by
  obtain ⟨h1, h2, h3, h4, h5, h6, h7, h8⟩ := status_fields (OpState.code s.ctl.op) (WalkerState.code s.wk.state)
    (FaultKind.code s.ctl.faultKind) (s.eng.rate == .drowsy) s.jrn.starved s.ctl.refusedWrite s.wk.badLink s.readStatus
    (by unfold State.readStatus; rfl)
  refine ⟨s.readStatus, rfl, ?_, ?_, ?_, h4, h5, h6, ?_, h8⟩
  · rw [h1]
    cases s.ctl.op <;> rfl
  · rw [h2]
    rcases s.wk.state with _ | _ | _ | _ | _ | _ | _ | _ | _ | _ | _ <;> rfl
  · rw [h3]
    cases s.eng.rate <;> decide
  · rw [h7]
    cases s.ctl.faultKind <;> rfl

/-- The bytes of a word. -/
theorem ofBytes_extract (b0 b1 b2 b3 : Byte) :
    (ofBytes b0 b1 b2 b3).extractLsb' 0 8 = b0 ∧ (ofBytes b0 b1 b2 b3).extractLsb' 8 8 = b1 ∧
    (ofBytes b0 b1 b2 b3).extractLsb' 16 8 = b2 ∧ (ofBytes b0 b1 b2 b3).extractLsb' 24 8 = b3 := by
  unfold ofBytes
  refine ⟨extract_low_whole _ _, ?_, ?_, ?_⟩
  · rw [extract_high (j := 0) _ _ (by decide), extract_low_whole]
  · rw [extract_high (j := 8) _ _ (by decide), extract_high (j := 0) _ _ (by decide), extract_low_whole]
  · rw [extract_high (j := 16) _ _ (by decide), extract_high (j := 8) _ _ (by decide), extract_high_whole]

/-- The halves of a word. -/
theorem ofHalves_extract (h0 h1 : Half) : (ofHalves h0 h1).extractLsb' 0 16 = h0 ∧ (ofHalves h0 h1).extractLsb' 16 16 = h1 :=
  ⟨extract_low_whole _ _, extract_high_whole _ _⟩

/-- The bytes of a word's lower half. -/
theorem ofHalves_low_extract (b0 b1 : Byte) (h1 : Half) :
    (ofHalves (b1 ++ b0) h1).extractLsb' 0 8 = b0 ∧ (ofHalves (b1 ++ b0) h1).extractLsb' 8 8 = b1 := by
  unfold ofHalves
  rw [extract_low (k := 0) (l := 8) _ _ (by decide), extract_low (k := 8) (l := 8) _ _ (by decide)]
  exact ⟨extract_low_whole _ _, extract_high_whole _ _⟩

/-- A mirror image, field by field (13). -/
theorem imageLayout : ImageLayout := by
  intro i
  obtain ⟨h0, h1, h2, h3⟩ := ofBytes_extract (byteField i.pagesQueued) i.rate.code (boolByte i.starved) 0
  exact ⟨_, rfl, h0, h1.trans (by cases i.rate <;> rfl), h2, h3⟩

/-- A snapshot record, field by field (13), and the group it names (R97). -/
theorem snapshotLayout : SnapshotLayout := by
  refine ⟨fun p pt group => ⟨_, _, _, _, _, rfl, ?_, ?_, ?_, ?_, ?_, ?_, ?_, ?_, ?_, ?_, ?_, ?_, ?_, ?_, ?_, ?_⟩, fun groups p => ⟨?_, ?_⟩⟩
  · exact (ofBytes_extract _ _ _ _).1
  · exact (ofBytes_extract _ _ _ _).2.1.trans (by cases pt.state <;> rfl)
  · exact (ofBytes_extract _ _ _ _).2.2.1.trans (by cases pt.faultCause <;> rfl)
  · exact (ofBytes_extract _ _ _ _).2.2.2.trans (by cases group <;> rfl)
  · exact (ofHalves_extract _ _).1
  · exact (ofHalves_extract _ _).2
  · exact (ofHalves_low_extract _ _ _).1
  · exact (ofHalves_low_extract _ _ _).2
  · exact (ofHalves_extract _ _).2.trans (BitVec.eq_of_toNat_eq (by simp))
  · exact (ofHalves_low_extract _ _ _).1
  · exact (ofHalves_low_extract _ _ _).2
  · exact (ofHalves_extract _ _).2.trans (BitVec.eq_of_toNat_eq (by simp))
  · exact (ofBytes_extract _ _ _ _).1
  · exact (ofBytes_extract _ _ _ _).2.1.trans (by cases pt.calPhase <;> rfl)
  · exact (ofBytes_extract _ _ _ _).2.2.1
  · refine ⟨?_, ?_, ?_, ?_, ?_⟩ <;> unfold ofBytes
    · simp only [BitVec.getLsbD_append, BitVec.getLsbD_setWidth]; simp
    · simp only [BitVec.getLsbD_append, BitVec.getLsbD_setWidth]; simp
    · simp only [BitVec.getLsbD_append, BitVec.getLsbD_setWidth]; simp
    · simp only [BitVec.getLsbD_append, BitVec.getLsbD_setWidth]; simp
    · rw [extract_high (j := 20) _ _ (by decide), extract_high (j := 12) _ _ (by decide), extract_high (j := 4) _ _ (by decide)]
      cases pt.spotBusy <;> cases pt.seedPending <;> cases pt.armedRecal <;> cases pt.armedReseed <;> rfl
  · simp [groupOf]
  · intro i h
    simpa using List.find?_some h

/-! ### Slots -/

/-- Setting a bit of a tuning value changes that bit only. -/
theorem withBit_getLsbD {w : Nat} (x : BitVec w) (n i : Nat) (hi : i < w) :
    (withBit x n).getLsbD i = (x.getLsbD i || decide (i = n)) := by
  unfold withBit
  by_cases e : i = n
  · subst e
    simp [hi]
  · simp [hi, e]
    omega

/-- Which slots convert, an armed recalibrate, and the preparation at the grant (R42, R67, R59). -/
theorem slotRules : SlotRules := by
  intro pt
  refine ⟨?_, ?_, ?_, ?_, ?_⟩
  · cases h : pt.state <;> simp [Point.slotConverts, Point.takesRecal, PointState.detecting, h]
  · cases h : pt.state <;> simp [Point.takesRecal, PointState.detecting, h]
  · simp [Point.takeRecal, Point.startCalibration, Settings.startPhase, Settings.startStep, Settings.fullProcedure]
  · intro h
    simp [Point.atGrant, h]
  · intro h
    refine ⟨prepare pt.calPhase pt.calStep pt.tuning, by simp [Point.atGrant, h], ?_, ?_, ?_, ?_, ?_, ?_, ?_⟩ <;>
      intro hp <;> try intro hs
    · simp [hp, hs, prepare, withBit]
    · have : pt.calStep ≠ 3 := by omega
      rw [hp]
      simp only [prepare, if_neg this, true_and]
      exact fun i hi => withBit_getLsbD _ _ _ hi
    · simp [hp, hs, prepare, withBit]
    · have : pt.calStep ≠ 4 := by omega
      rw [hp]
      simp only [prepare, if_neg this, true_and]
      exact fun i hi => withBit_getLsbD _ _ _ hi
    · simp [hp, hs, prepare, withBit]
    · have : pt.calStep ≠ 9 := by omega
      rw [hp]
      simp only [prepare, if_neg this, true_and]
      exact fun i hi => withBit_getLsbD _ _ _ hi
    · rw [hp]
      rfl

/-- A point's record put in changes no item of the scan engine but the points. -/
theorem State.setPoint_eng (s : State) (p : PointId) (x : Point) :
    (s.setPoint p x).eng = { s.eng with points := s.eng.points.set p.val x p.isLt } := rfl

/-- An updated point changes no item of the scan engine but the points. -/
theorem State.updatePoint_eng (s : State) (p : PointId) (x : Point) :
    (s.updatePoint p x).eng = { s.eng with points := s.eng.points.set p.val x p.isLt } := by
  unfold State.updatePoint
  split <;> rfl

/-- An updated point is reported when its state changes (R43). -/
theorem State.updatePoint_out (s : State) (p : PointId) (x : Point) :
    (s.updatePoint p x).out = (if x.state = (s.point p).state then s.out else s.out.report p x.state) := by
  unfold State.updatePoint
  split <;> rfl

/-- The conversion of a slot is requested (R47, R45, R59). -/
theorem requestScan_begins (s : State) (q : PointId) :
    (∀ r : PointId, r ≠ q → (requestScan q s).point r = s.point r) ∧
    (requestScan q s).eng = { s.eng with points := (requestScan q s).eng.points } ∧
    (s.arb.grant = .free → s.arb.spotWaits = false → (requestScan q s).point q = (s.point q).atGrant ∧
      (requestScan q s).arb = { grant := .scan ⟨(s.point q).cfg.integration, (s.point q).atGrant.tuning⟩, scanWaits := false,
                                spotWaits := false }) ∧
    (s.arb.grant ≠ .free → (requestScan q s).point q = s.point q ∧ (requestScan q s).arb = { s.arb with scanWaits := true }) := by
  have hc : (s.point q).atGrant.cfg = (s.point q).cfg := by
    unfold Point.atGrant
    split <;> rfl
  unfold requestScan
  split
  · rename_i h
    refine ⟨fun r hr => ?_, ?_, fun _ hw => ?_, fun hg => absurd h.1 hg⟩
    · exact State.point_setPoint_other s hr _
    · rfl
    · exact ⟨State.point_setPoint_same s q _, by simp [grantScan, hw, Point.conversion, hc]⟩
  · rename_i h
    exact ⟨fun r _ => rfl, rfl, fun hg hw => absurd ⟨hg, hw⟩ h, fun _ => ⟨rfl, rfl⟩⟩

/-- The boundary request that the walker has passed is at the engine inside a frame. -/
theorem Walker.reached_reaches (w : Walker) : w.Reaches w.reached := by
  refine ⟨fun h e => by simp [Walker.reached, e], fun hn => ?_⟩
  unfold Walker.reached
  split
  · rename_i h e
    exact absurd e (hn h)
  · rfl

/-- The slot of point `q` is begun. -/
theorem startSlot_begins (s : State) (q : PointId) : s.SlotBegun q (startSlot q s) := by
  unfold State.SlotBegun startSlot
  dsimp only
  by_cases h : (s.point q).takesRecal = true
  · have hs : (s.point q).takeRecal.state ≠ (s.point q).state := fun e => by
      have : (s.point q).takeRecal.state = .calibrating := rfl
      rw [this] at e
      simp [Point.takesRecal, ← e, PointState.detecting] at h
    obtain ⟨ho, he, hf, hw⟩ := requestScan_begins (((s.updatePoint q (s.point q).takeRecal).setEng
      { (s.updatePoint q (s.point q).takeRecal).eng with slot := some q }).setWk s.wk.reached) q
    simp only [h, if_true]
    refine ⟨fun r hr => ?_, ?_, ?_, by simp, by simp, by simp [Walker.reached_reaches], by simp, by simp, by simp, by simp,
      fun x hx => ?_⟩
    · exact (ho r hr).trans (State.updatePoint_other s hr _)
    · rw [he]
      simp [State.updatePoint_eng]
    · simp [State.updatePoint_out, hs]
      rfl
    · subst hx
      have hp : (((s.updatePoint q (s.point q).takeRecal).setEng
        { (s.updatePoint q (s.point q).takeRecal).eng with slot := some q }).setWk s.wk.reached).point q = (s.point q).takeRecal :=
          State.updatePoint_point s q _
      rw [hp] at hf hw
      simp only [State.setWk_arb, State.setEng_arb, State.updatePoint_keeps] at hf hw
      exact ⟨hf, hw⟩
  · obtain ⟨ho, he, hf, hw⟩ := requestScan_begins ((s.setEng { s.eng with slot := some q }).setWk s.wk.reached) q
    simp only [h, if_false, Bool.false_eq_true]
    refine ⟨ho, ?_, by simp, by simp, by simp, by simp [Walker.reached_reaches], by simp, by simp, by simp, by simp,
      fun x hx => ?_⟩
    · rw [he]
      rfl
    · subst hx
      exact ⟨hf, hw⟩

/-- The slots of these points end at the first that requests a conversion, or with none in progress. -/
theorem runSlots_first {s : State} {q : PointId} : ∀ {ps : List PointId}, ps.Pairwise (· < ·) → q ∈ ps →
    (s.point q).slotConverts = true → (∀ r ∈ ps, r < q → (s.point r).slotConverts = false) → runSlots ps s = startSlot q s
  | [], _, h, _, _ => by simp at h
  | p :: ps, hs, h, hq, hn => by
    unfold runSlots
    by_cases e : p = q
    · subst e
      simp [hq]
    · have hmem : q ∈ ps := by simpa [Ne.symm e] using h
      have hlt : p < q := (List.pairwise_cons.1 hs).1 q hmem
      rw [hn p (by simp) hlt]
      exact runSlots_first (List.pairwise_cons.1 hs).2 hmem hq fun r hr => hn r (by simp [hr])

/-- The slots of points none of which requests a conversion. -/
theorem runSlots_none {s : State} : ∀ {ps : List PointId}, (∀ r ∈ ps, (s.point r).slotConverts = false) →
    runSlots ps s = s.setEng { s.eng with slot := none }
  | [], _ => rfl
  | p :: ps, h => by
    unfold runSlots
    rw [h p (by simp)]
    exact runSlots_none fun r hr => h r (by simp [hr])

/-- The points after `p`. -/
theorem mem_pointsAfter {p r : PointId} : r ∈ pointsAfter p ↔ p < r := by simp [pointsAfter]

/-- The slot after `p`'s begins at the next point that requests a conversion. -/
theorem runSlots_next {s : State} {p q : PointId} (h : s.NextSlot p q) : runSlots (pointsAfter p) s = startSlot q s :=
  runSlots_first (List.Pairwise.filter _ (List.pairwise_lt_finRange 32)) (mem_pointsAfter.2 h.1) h.2.1
    fun r hr hlt => h.2.2 r (mem_pointsAfter.1 hr) hlt

/-- The converter is released by the scan engine (R47). -/
theorem releaseConverter_releases {s : State} (hw : s.arb.scanWaits = false) :
    (releaseConverter s).eng = s.eng ∧ (releaseConverter s).out = s.out ∧
    (s.arb.spotWaits = false → (releaseConverter s).spt = s.spt ∧
      (releaseConverter s).arb = { grant := .free, scanWaits := false, spotWaits := false }) ∧
    (s.arb.spotWaits = true → ∀ k, s.spt.state = .queued k →
      (releaseConverter s).spt = { s.spt with state := .converting k ⟨0, 0, 0, 0, 0⟩ none } ∧
      (releaseConverter s).arb = { grant := .spot ⟨(s.point k.point).cfg.integration, (s.point k.point).tuning⟩
                                   scanWaits := false, spotWaits := false }) := by
  unfold releaseConverter
  dsimp only
  cases hs : s.arb.spotWaits
  · simp [hw]
  · refine ⟨?_, ?_, by simp, fun _ k hk => ?_⟩
    · simp only [if_true, grantSpot]
      split <;> rfl
    · simp
    · simp [grantSpot, hk, hw, SpotSums.zero, Point.conversion]
      exact ⟨rfl, rfl⟩

/-- A record is appended if there is one and a page to take it. -/
theorem appendSome_jrn (r : Option Record) (s : State) : (appendSome r s).jrn = (match r, s.jrn.page with
    | some r, some page => s.jrn.appended page (r.words (s.jrn.recordSeq + 1) s.eng.frameInProgress)
    | _, _ => s.jrn) := by
  unfold appendSome
  rcases r with _ | r
  · rfl
  · rcases hp : s.jrn.page with _ | page
    · exact congrArg State.jrn (append_none hp r)
    · exact append_jrn hp r

/-- The cause of a measurement is raised. -/
theorem raiseTrip_atn (p : PointId) (k : Option TripKind) (s : State) : (raiseTrip p k s).atn = (match k with
    | none => s.atn
    | some .engaged => s.atn.raise (.engaged p)
    | some .pointFault => s.atn.raise (.pointFault p)) := by
  rcases k with _ | _ | _ <;> rfl

/-- The work of a slot at its conversion's completion, with the converter released (R42, R43, R47). -/
theorem measurePoint_done {s : State} (p : PointId) (c : Half) (hw : s.arb.scanWaits = false) :
    s.SlotDone p (measure p (s.point p) (groupView s.eng.points s.eng.groups p) c) (releaseConverter (measurePoint p c s)) := by
  unfold measurePoint
  dsimp only
  generalize measure p (s.point p) (groupView s.eng.points s.eng.groups p) c = m
  have hk := releaseConverter_releases (s := raiseTrip p m.trip (appendSome m.record (s.updatePoint p m.pt))) (by simp [hw])
  obtain ⟨he, ho, hf, hg⟩ := hk
  have hp : ∀ r, (releaseConverter (raiseTrip p m.trip (appendSome m.record (s.updatePoint p m.pt)))).point r =
      (s.updatePoint p m.pt).point r := fun r => by
    unfold State.point
    rw [he]
    simp
  refine ⟨?_, fun r hr => ?_, ?_, ?_, ?_, ?_, by simp, by simp, by simp, by simp, fun hs => ?_, fun hs k hk => ?_⟩
  · rw [hp, State.updatePoint_point]
  · rw [hp, State.updatePoint_other s hr]
  · rw [he]
    simp [State.updatePoint_eng]
  · rw [ho]
    simp [State.updatePoint_out]
  · cases m.record <;> cases hpg : s.jrn.page <;> simp [appendSome_jrn, hpg]
  · rcases m.trip with _ | _ | _ <;> simp [raiseTrip_atn]
  · simpa using hf (by simpa using hs)
  · rw [hp]
    have := hg (by simpa using hs) k (by simpa using hk)
    simpa [State.point] using this

/-! ### Boundary requests that wait -/

/-- Whatever order the port receives accesses in, the state is the same but for that order. -/
theorem receiveTogether_same (n : Nat) (s : State) : s.SameButOrder (receiveTogether n s) := by
  exact ⟨receiveTogether_perm n s, rfl⟩

/-- The same state but for an order of receipt, the other way round. -/
theorem State.SameButOrder.symm {s t : State} (h : s.SameButOrder t) : t.SameButOrder s := by
  refine ⟨h.1.symm, ?_⟩
  rw [h.2]
  rfl

/-- Between frames the command of a waiting boundary request applies it. -/
theorem exec_boundary {s : State} {h : Held} {r : Request} {c : Instr} (hb : s.betweenFrames = true) (hw : s.Awaits h r)
    (hc : r.boundaryCommand = some c) : exec c s = .next (receiveTogether s.port.length (applyBoundary h r s)) := by
  cases r <;> simp [Request.boundaryCommand] at hc <;> subst hc <;>
    exact congrArg Host.Outcome.next (boundaryStep_eq hb hw rfl)

/-- The scan engine applies the boundary request that waits (R119 step 6, R121, R123). -/
theorem applyWaiting_applies {s : State} (hb : s.betweenFrames = true) : s.AppliesWaiting (applyWaiting s) := by
  refine ⟨fun hn => ?_, fun h r c hw hc => ⟨_, exec_boundary hb hw hc, ?_⟩⟩
  · unfold applyWaiting
    split
    · rename_i h r hf
      exact absurd (State.awaits_of_found hf) (hn h r)
    · rfl
  · have e : applyWaiting s = applyBoundary h r s := by
      unfold applyWaiting
      rw [hw.found]
    rw [e]
    exact (receiveTogether_same _ _).symm

/-- The boundary request that has waited for the frame's end is applied (R31). -/
theorem applyReached_applies {s : State} (hb : s.betweenFrames = true) : s.AppliesReached (applyReached s) := by
  refine ⟨fun ⟨h, hw⟩ => ?_, fun hn => ?_⟩
  · simpa [applyReached, hw] using applyWaiting_applies hb
  · unfold applyReached
    split
    · rename_i h hw
      exact absurd hw (hn h)
    · rfl

/-- The boundary request that the walker has passed reaches the engine (R31, R121). -/
theorem reachEngine_reaches (s : State) : s.ReachesEngine (reachEngine s) := by
  refine ⟨fun hb => ?_, fun hb => ?_⟩
  · rw [reachEngine, if_pos hb]
    exact applyWaiting_applies hb
  · rw [reachEngine, if_neg (by simp [hb])]
    exact ⟨rfl, Walker.reached_reaches _⟩

/-! ### The output unit -/

/-- The level a LINKED line wants over a view: R160's table of link states. -/
theorem Line.wanted_iff (l : Line) (view : Vector PointState 32) : l.wanted view = true ↔ ∃ q : PointId,
    inSet l.linkSet q = true ∧ ((l.linkStates.onEngaged = true ∧ (view[q] = .engaged ∨ view[q] = .leaving)) ∨
      (l.linkStates.onFault = true ∧ view[q] = .fault) ∨ (l.linkStates.onCalibrating = true ∧ view[q] = .calibrating)) := by
  unfold Line.wanted
  simp only [List.any_eq_true, List.mem_finRange, true_and, Bool.and_eq_true, inSet]
  refine exists_congr fun q => and_congr_right fun _ => ?_
  generalize view[q] = st
  cases st <;> simp [LinkStates.satisfied]

/-! ### Frames -/

/-- The image as the units stand. -/
theorem captureImage_eq (s : State) : captureImage s = s.imageNow := rfl

/-- The mirror writer after a capture. -/
theorem capture_mir (s : State) : s.mir.Captured s.imageNow (capture false s).mir := by
  refine ⟨fun h => ?_, fun w h => ⟨fun hd => ?_, fun hd => ?_, fun hd => ?_⟩⟩
  · simp [capture_issues h, issueImage, captureImage_eq]
  · rcases hd with hd | hd <;> simp [capture, takeImage, h, hd, waitImage, captureImage_eq]
  · simp [capture, takeImage, h, hd, replaceImage, captureImage_eq]
  · simp only [capture, takeImage, h, hd, State.setTick_mir, State.setMir_mir]
    split
    · exact .inl (by simp [waitImage, placeImage, captureImage_eq, h])
    · exact .inr (by simp [replaceImage, captureImage_eq, hd])

/-- What an event of the scan engine finds. -/
theorem State.eventBegun_eq (s : State) : s.eventBegun = s.atEvent := by
  unfold State.eventBegun State.atEvent MirrorDuring.ofPort
  rfl

/-- What an event of the scan engine leaves: what its work makes, but for the order of the accesses. -/
theorem scanEvent_ends (f : State → State) (s : State) : s.EventEnds (f s.atEvent) (scanEvent f s) := by
  rw [← State.eventBegun_eq]
  refine ⟨receiveTogether_perm _ _, ?_⟩
  have h := receiveTogether_same (if (f s.eventBegun).mir.during = .image then max 1 s.port.length else s.port.length)
    (f s.eventBegun)
  unfold scanEvent
  dsimp only
  rw [h.2]
  rfl

/-- A frame boundary starts a look at rest (R22). -/
theorem frameBoundary_wk (s : State) :
    (frameBoundary s).wk = (if s.wk.state = .resting then { s.wk with state := .fetchLink } else s.wk) := by
  unfold frameBoundary startLook
  split
  · rename_i h
    simp [h, State.walkTo]
  · rename_i h
    rw [if_neg (by simpa using h)]

/-- The frame is skipped, with the page in the slot closed and the pool empty. -/
theorem admissionCheck_skips {s : State} (h : ¬ s.HasRoom) : s.FrameSkipped (admissionCheck s) := by
  obtain ⟨h1, h2, h3, h4, h5, h6⟩ := askRoom_starves h
  have e : admissionCheck s = skipFrame (askRoom s.eng.reservation s).2 := by
    unfold admissionCheck
    generalize askRoom s.eng.reservation s = x at h1
    obtain ⟨b, x⟩ := x
    simp at h1
    subst h1
    rfl
  rw [e]
  have k := askRoom_keeps s s.eng.reservation
  generalize (askRoom s.eng.reservation s).2 = u at *
  unfold skipFrame
  refine ⟨by simp [k], ?_, ?_, by simp [h4], by simp [frameBoundary_wk, k], ?_, by simp [k], by simp [k], by simp [k], by simp [k],
    by simp [k]⟩
  · intro hp
    simp [h2 hp]
  · intro page hp
    simp [h3 page hp]
  · rw [(frameBoundary_keeps _).2.2.2.2.2.1]
    have hc := capture_mir (u.setEng { u.eng with frameState := .waiting, gap := u.eng.gap + 1 })
    simp only [State.setEng_mir, k] at hc ⊢
    refine Eq.mp (congrArg (fun i => Mirror.Captured i _ _) ?_) hc
    rcases hp : s.jrn.page with _ | page
    · simp [State.imageNow, k, h2 hp, hp]
    · simp [State.imageNow, k, h3 page hp, Journal.closed]

/-- The words of a GAP record. -/
theorem gapRecord_words (gap sequence frame : Word) :
    (gapRecord gap).words sequence frame = [ofHalves 0xFF08 0, gap, sequence, frame] := by
  have : (whoByte none ++ ((0 : BitVec 1) ++ (0 : BitVec 3) ++ RecordKind.code .gap) : BitVec 16) = 0xFF08 := by decide
  simp only [Record.words, gapRecord, Bool.false_eq_true, if_false, List.append_nil]
  exact congrArg (fun x => [ofHalves x 0, gap, sequence, frame]) this

/-- The words of a MARK record. -/
theorem markRecord_words (m : MarkSlot) (sequence frame : Word) :
    (markRecord m).words sequence frame = [ofHalves 0xFF09 m.tag, m.addr, sequence, frame] := by
  have : (whoByte none ++ ((0 : BitVec 1) ++ (0 : BitVec 3) ++ RecordKind.code .mark) : BitVec 16) = 0xFF09 := by decide
  simp only [Record.words, markRecord, Bool.false_eq_true, if_false, List.append_nil]
  exact congrArg (fun x => [ofHalves x m.tag, m.addr, sequence, frame]) this

/-- The GAP record of an admitted frame (R115 step 2, R131). -/
theorem reportGap_reports {s : State} {page : OpenPage} (hp : s.jrn.page = some page) :
    (reportGap s).eng = { s.eng with gap := 0 } ∧ (reportGap s).jrn.page ≠ none ∧
    (s.eng.gap = 0 → (reportGap s).jrn = s.jrn) ∧
    (s.eng.gap ≠ 0 → (reportGap s).jrn =
      s.jrn.appended page [ofHalves 0xFF08 0, s.eng.gap, s.jrn.recordSeq + 1, s.eng.frameInProgress]) := by
  unfold reportGap
  by_cases h : s.eng.gap = 0
  · rw [if_pos h]
    refine ⟨?_, by simp [hp], fun _ => rfl, fun e => absurd h e⟩
    rw [← h]
  · rw [if_neg h]
    refine ⟨by simp, by simp [append_jrn hp, Journal.appended], fun e => absurd e h, fun _ => ?_⟩
    simp only [State.setEng_jrn, append_jrn hp, gapRecord_words]

/-- The MARK record of an admitted frame (R115 step 3, R144). -/
theorem reportMark_reports {s : State} {page : OpenPage} (hp : s.jrn.page = some page) :
    (reportMark s).eng = { s.eng with mark := none } ∧ (s.eng.mark = none → (reportMark s).jrn = s.jrn) ∧
    (∀ m, s.eng.mark = some m → (reportMark s).jrn =
      s.jrn.appended page [ofHalves 0xFF09 m.tag, m.addr, s.jrn.recordSeq + 1, s.eng.frameInProgress]) := by
  unfold reportMark
  rcases h : s.eng.mark with _ | m
  · simp
    rw [← h]
  · refine ⟨by simp, by simp, fun m' e => ?_⟩
    cases e
    simp only [State.setEng_jrn, append_jrn hp, markRecord_words]

/-- The frame is admitted: the journal unit's room, the GAP and MARK records, and the first slot. -/
theorem admissionCheck_begins {s : State} (h : s.HasRoom) : s.FrameBegun (admissionCheck s) := by
  obtain ⟨h1, h2, h3, h4⟩ := askRoom_admits h
  have e : admissionCheck s = beginFrame (askRoom s.eng.reservation s).2 := by
    unfold admissionCheck
    generalize askRoom s.eng.reservation s = x at h1
    obtain ⟨b, x⟩ := x
    simp at h1
    subst h1
    rfl
  rw [e]
  have k := askRoom_keeps s s.eng.reservation
  generalize (askRoom s.eng.reservation s).2 = u at *
  obtain ⟨page, hp⟩ := Option.ne_none_iff_exists'.1 h3
  obtain ⟨g1, g2, g3, g4⟩ := reportGap_reports
    (s := enterFrame u) (page := page) hp
  have kg := reportGap_keeps (enterFrame u)
  unfold beginFrame
  generalize reportGap (enterFrame u) = g at *
  obtain ⟨page', hp'⟩ := Option.ne_none_iff_exists'.1 g2
  obtain ⟨m1, m2, m3⟩ := reportMark_reports hp'
  have km := reportMark_keeps g
  generalize reportMark g = y at *
  have hf : g.eng.frameInProgress = s.eng.frameNumber := by simp [g1, enterFrame, k]
  have hw : y.wk = s.wk.reached := by simp [km, kg, k]
  have hz : (runSlots (List.finRange 32) y).wk = s.wk.reached := by
    rcases runSlots_wk y (List.finRange 32) with e | e <;> simp [e, hw]
  refine ⟨u.jrn, g.jrn, _, h2, rfl, ?_, ?_, ?_, ?_, ?_, ?_⟩
  · intro hg
    exact g3 (by simpa [enterFrame, k] using hg)
  · intro hg pg hpg
    have : pg = page := by simpa [hp] using hpg.symm
    subst this
    simpa [enterFrame, k] using g4 (by simpa [enterFrame, k] using hg)
  · intro hm
    simpa using m2 (by simp [g1, enterFrame, k, hm])
  · intro m hm pg hpg
    have : pg = page' := by simpa [hp'] using hpg.symm
    subst this
    simpa [hf] using m3 m (by simp [g1, enterFrame, k, hm])
  · rw [hz]
    exact Walker.reached_reaches _
  · intro b hb
    have hy : b = (y.setEng { y.eng with slot := none }).setPort s.port := by
      subst hb
      apply State.eq_of_fields <;> simp [m1, g1, enterFrame, k, km, kg, h4, hz]
    refine ⟨fun hn => ?_, fun q hq => ?_⟩
    · rw [runSlots_none fun r _ => ?_]
      · rw [hy]
        rfl
      · have := hn r
        simpa [State.point, m1, g1, enterFrame, k] using this
    · rw [runSlots_first (List.pairwise_lt_finRange 32) (List.mem_finRange q) (by simpa [State.point, m1, g1, enterFrame, k] using hq.1)
        fun r _ hr => by simpa [State.point, m1, g1, enterFrame, k] using hq.2 r hr]
      rw [hy]
      exact startSlot_begins y q

/-- Every enabled point is IDLE. -/
theorem allQuiet_iff (s : State) :
    s.eng.allQuiet = true ↔ ∀ p : PointId, (s.point p).state = .disabled ∨ (s.point p).state = .idle := by
  simp only [ScanEngine.allQuiet, List.all_eq_true, State.point]
  constructor
  · intro h p
    simpa using h s.eng.points[p] (by simp)
  · intro h x hx
    obtain ⟨i, hi, rfl⟩ := List.mem_iff_getElem.1 hx
    simpa using h ⟨i, by simpa using hi⟩

/-- The quiet judgment (R120). -/
theorem judge_judges (s : State) :
    s.eng.judge = { s.eng with quiet := s.eng.judge.quiet, rate := s.eng.judge.rate, frameTimer := s.eng.judge.frameTimer } ∧
    ((∀ p : PointId, (s.point p).state = .disabled ∨ (s.point p).state = .idle) →
      s.eng.judge.quiet = (if s.eng.quiet < 65535 then s.eng.quiet + 1 else s.eng.quiet) ∧
      s.eng.judge.rate =
        (if s.eng.timing.drowsyAfter ≠ 0 ∧ s.eng.timing.drowsyAfter ≤ s.eng.judge.quiet then .drowsy else s.eng.rate) ∧
      s.eng.judge.frameTimer = s.eng.frameTimer) ∧
    ((∃ p : PointId, (s.point p).state ≠ .disabled ∧ (s.point p).state ≠ .idle) →
      s.eng.judge.quiet = 0 ∧ s.eng.judge.rate = .brisk ∧
      s.eng.judge.frameTimer = (if s.eng.rate = .drowsy then some s.eng.timing.brisk else s.eng.frameTimer)) := by
  refine ⟨?_, fun h => ?_, fun h => ?_⟩
  · unfold ScanEngine.judge
    (repeat' split) <;> rfl
  · have h' := (allQuiet_iff s).2 h
    unfold ScanEngine.judge
    rw [if_pos h']
    cases hr : s.eng.rate <;> simp
  · have h' : ¬ s.eng.allQuiet = true := fun hq => by
      obtain ⟨p, h1, h2⟩ := h
      exact ((allQuiet_iff s).1 hq p).elim h1 h2
    unfold ScanEngine.judge
    rw [if_neg h']
    cases hr : s.eng.rate <;> simp

/-- The quiet judgment at a frame's end. -/
theorem judge_judged (s : State) : s.Judged (s.setEng s.eng.judge) := by
  obtain ⟨j1, j2, j3⟩ := judge_judges s
  exact ⟨congrArg s.setEng j1, j2, j3⟩

/-- The journal unit is told that the frame is over. -/
theorem journalFrameOver_told (s : State) : s.ToldOver (journalFrameOver s) :=
  ⟨journalFrameOver_jrn s, by
    apply State.eq_of_fields <;> try simp
    rw [journalFrameOver_wk]
    cases s.wk.state <;> rfl⟩

/-- Expiries in SCANNING, with the timer running. -/
theorem expiriesInFrame_running (n : Nat) (s : State) (v : Nat) (h : s.eng.frameTimer = some v) :
    expiriesInFrame (n + 1) s = s.setEng { s.eng with
      frameTimer := some s.eng.period
      frameNumber := s.eng.frameNumber + BitVec.ofNat 32 (n + 1)
      startPending := true
      merged := s.eng.merged + BitVec.ofNat 32 (if s.eng.startPending then n + 1 else n) } := by
  induction n generalizing s v with
  | zero =>
    unfold expiriesInFrame
    rw [h]
    cases hp : s.eng.startPending <;> simp [expiriesInFrame, ScanEngine.expiredInFrame, ScanEngine.restarted, hp]
  | succ n ih =>
    have hf : s.eng.expiredInFrame.frameTimer = some s.eng.period := by
      unfold ScanEngine.expiredInFrame
      split <;> rfl
    rw [expiriesInFrame, h, if_neg (by simp), ih (s.setEng s.eng.expiredInFrame) _ hf]
    cases hp : s.eng.startPending <;>
      simp [hp, ScanEngine.expiredInFrame, ScanEngine.restarted, ScanEngine.period, BitVec.add_assoc, BitVec.ofNat_add,
        BitVec.add_comm]

/-- Expiries in SCANNING (R113). -/
theorem expiriesInFrame_expires (n : Nat) (s : State) : s.Expired n (expiriesInFrame n s) := by
  refine ⟨fun h => ?_, fun hn v hv => ?_⟩
  · rcases h with rfl | h
    · rfl
    · cases n <;> simp [expiriesInFrame, h]
  · obtain ⟨n, rfl⟩ := Nat.exists_eq_succ_of_ne_zero hn
    rw [expiriesInFrame_running n s v hv]
    rfl

/-- Expiries in a frame's end behind its step 3 (R113, R117). -/
theorem expiriesCounted_expires (n : Nat) (s : State) : s.ExpiredCounted n (expiriesCounted n s) :=
  ⟨_, expiriesInFrame_expires n s, rfl⟩

/-- A capture of the image. -/
theorem capture_captures (s : State) : capture false s =
    ((s.setMir (capture false s).mir).setPort (capture false s).port).setTick (capture false s).tick := by
  apply State.eq_of_fields <;> simp

/-- A frame boundary. -/
theorem frameBoundary_announces (s : State) : frameBoundary s =
    (s.setWk (if s.wk.state = .resting then { s.wk with state := .fetchLink } else s.wk)).setPort (frameBoundary s).port := by
  apply State.eq_of_fields <;> simp [frameBoundary_wk]

/-- The engine leaves SCANNING. -/
theorem leaveScanning_ends (x : EndExpiries) (s : State) : s.FrameEnded x (leaveScanning x s) :=
  ⟨_, _, _, _, _, _, _, _, judge_judged s, expiriesInFrame_expires _ _, journalFrameOver_told _, expiriesInFrame_expires _ _,
    expiriesCounted_expires _ _, capture_mir _, capture_captures _, expiriesCounted_expires _ _,
    ⟨_, frameBoundary_announces _, expiriesCounted_expires _ _⟩, rfl⟩

/-- The engine has left SCANNING. -/
theorem leaveScanning_between (x : EndExpiries) (s : State) : (leaveScanning x s).betweenFrames = true := rfl

/-- The engine parks after a cut frame. -/
theorem leaveCut_ends (s : State) : s.CutEnded (leaveCut s) :=
  ⟨_, journalFrameOver_told s, by simp [leaveCut]⟩

/-- Some slot converts or none does: the first one, if any, exists. -/
theorem State.firstSlot_of_not_noSlot {s : State} (h : ¬ s.NoSlot) : ∃ q, s.FirstSlot q := by
  have key : ∀ n : Nat, ∀ p : PointId, p.val = n → (s.point p).slotConverts = true → ∃ q, s.FirstSlot q := by
    intro n
    induction n using Nat.strongRecOn with
    | ind n ih =>
      intro p hp hc
      by_cases he : ∃ r : PointId, r < p ∧ (s.point r).slotConverts = true
      · obtain ⟨r, hr, hrc⟩ := he
        exact ih r.val (hp ▸ hr) r rfl hrc
      · exact ⟨p, hc, fun r hr => by simpa using fun hrc => he ⟨r, hr, hrc⟩⟩
  obtain ⟨p, hp⟩ := Classical.not_forall.1 h
  exact key p.val p rfl (by simpa using hp)

/-- A frame just begun is done exactly when no slot of it requests a conversion. -/
theorem State.FrameBegun.frameDone {s t : State} (h : s.FrameBegun t) : t.frameDone = true ↔ s.NoSlot := by
  obtain ⟨_, _, _, _, _, _, _, _, _, _, hb⟩ := h
  obtain ⟨hn, hf⟩ := hb _ rfl
  refine ⟨fun ht => Classical.byContradiction fun hs => ?_, fun hs => ?_⟩
  · obtain ⟨q, hq⟩ := State.firstSlot_of_not_noSlot hs
    have he : t.eng.slot = some q := congrArg ScanEngine.slot (hf q hq).2.1
    simp [State.frameDone, he] at ht
  · rw [hn hs]
    simp [State.frameDone]

/-- A frame without expiries in its end has no start pending that it had not. -/
theorem endFrame_startPending (s : State) : (endFrame s).eng.startPending = s.eng.startPending := by
  have h : s.eng.judge.startPending = s.eng.startPending := by
    unfold ScanEngine.judge
    (repeat' split) <;> rfl
  exact (applyWaiting_keepsEngine (leaveScanning .zero s)).2.2.2.2.1.trans
    (by simp [leaveScanning, EndExpiries.zero, expiriesCounted, expiriesInFrame, addMerged, h])

/-- A frame whose last slot is done ends, with no expiry inside its end. -/
theorem finishPlain_finishes {s : State} (h : s.frameDone = true) : s.FrameFinishedPlain (finishPlain s) := by
  have hp := endFrame_startPending s
  refine ⟨leaveScanning .zero s, endFrame s, leaveScanning_ends _ s, applyWaiting_applies (leaveScanning_between _ s),
    fun hs => ?_, fun hs w hw => ⟨fun hr => ?_, fun hr => ?_⟩⟩
  · simp [finishPlain, h, hs]
  · have ha := admissionCheck_skips hr
    have hd : (admissionCheck w).frameDone = false := by simp [State.frameDone, ha.1]
    have e : finishPlain s = admissionCheck w := by simp [finishPlain, h, hs, ← hw, hd]
    rw [e]
    exact ha
  · have ha := admissionCheck_begins hr
    refine ⟨admissionCheck w, ha, fun hn => ?_, fun hn => ?_⟩
    · have hd : (admissionCheck w).frameDone = false := by simpa using fun hd => hn (ha.frameDone.1 hd)
      simp [finishPlain, h, hs, ← hw, hd]
    · have e : finishPlain s = endFrame (admissionCheck w) := by
        simp [finishPlain, h, hs, ← hw, ha.frameDone.2 hn]
      rw [e]
      exact ⟨leaveScanning .zero (admissionCheck w), leaveScanning_ends _ _, applyWaiting_applies (leaveScanning_between _ _)⟩

/-- With no frame done nothing ends. -/
theorem finishFrame_notDone (n : Nat) (ends : List EndExpiries) {s : State} (h : s.frameDone = false) :
    finishFrame n ends s = (ends, s) := by
  cases n <;> cases ends <;> simp [finishFrame, finishPlain, h]

/-- The admission check, with the end of the frame it begins if that is done at once. -/
theorem admissionCheck_finishes (n : Nat) (xs : List EndExpiries) (w : State)
    (hf : ∀ (xs : List EndExpiries) (s : State), s.frameDone = true →
      State.FrameFinished n xs s (finishFrame n xs s).1 (finishFrame n xs s).2) :
    (¬ w.HasRoom → (finishFrame n xs (admissionCheck w)).1 = xs ∧ w.FrameSkipped (finishFrame n xs (admissionCheck w)).2) ∧
    (w.HasRoom → ∃ b, w.FrameBegun b ∧
      (¬ w.NoSlot → (finishFrame n xs (admissionCheck w)).1 = xs ∧ (finishFrame n xs (admissionCheck w)).2 = b) ∧
      (w.NoSlot → State.FrameFinished n xs b (finishFrame n xs (admissionCheck w)).1
        (finishFrame n xs (admissionCheck w)).2)) := by
  refine ⟨fun hr => ?_, fun hr => ?_⟩
  · have ha := admissionCheck_skips hr
    rw [finishFrame_notDone n xs (by simp [State.frameDone, ha.1])]
    exact ⟨rfl, ha⟩
  · have ha := admissionCheck_begins hr
    refine ⟨admissionCheck w, ha, fun hn => ?_, fun hn => hf xs _ (ha.frameDone.2 hn)⟩
    rw [finishFrame_notDone n xs (by simpa using fun hd => hn (ha.frameDone.1 hd))]
    exact ⟨rfl, rfl⟩

/-- An expiry outside a frame's end. -/
theorem expire_expires (n : Nat) (xs : List EndExpiries) (s : State)
    (hf : ∀ (xs : List EndExpiries) (s : State), s.frameDone = true →
      State.FrameFinished n xs s (finishFrame n xs s).1 (finishFrame n xs s).2) :
    s.ExpiredOnce (State.FrameFinished n) xs (expire (finishFrame n) xs s).1 (expire (finishFrame n) xs s).2 := by
  refine ⟨fun h => ?_, fun h => ?_, fun h v hv w hw => ?_⟩
  · unfold expire
    rw [h]
    exact ⟨rfl, rfl⟩
  · have he := expiriesInFrame_expires 1 s
    unfold expire
    simp only [expiriesInFrame] at he
    rcases hv : s.eng.frameTimer with _ | v
    · simpa [hv] using he
    · simpa [hv, h] using he
  · have e : expire (finishFrame n) xs s = finishFrame n xs (admissionCheck w) := by
      unfold expire
      rw [hv, h, hw]
      rfl
    rw [e]
    exact admissionCheck_finishes n xs w hf

/-- Expiries outside a frame's end. -/
theorem expireTimes_expires (n : Nat)
    (hf : ∀ (xs : List EndExpiries) (s : State), s.frameDone = true →
      State.FrameFinished n xs s (finishFrame n xs s).1 (finishFrame n xs s).2) :
    ∀ (m : Nat) (xs : List EndExpiries) (s : State), s.ExpiredTimes (State.FrameFinished n) m xs
      (expireTimes (finishFrame n) m xs s).1 (expireTimes (finishFrame n) m xs s).2
  | 0, _, _ => ⟨rfl, rfl⟩
  | m + 1, xs, s => ⟨_, _, expire_expires n xs s hf, expireTimes_expires n hf m _ _⟩

/-- A frame whose last slot is done ends, with the expiries inside its end. -/
theorem finishFrame_finishes : ∀ (n : Nat) (ends : List EndExpiries) (s : State), s.frameDone = true →
    State.FrameFinished n ends s (finishFrame n ends s).1 (finishFrame n ends s).2
  | 0, _, _, h => ⟨rfl, finishPlain_finishes h⟩
  | _ + 1, [], _, h => ⟨rfl, finishPlain_finishes h⟩
  | n + 1, x :: xs, s, h => by
    have hf := finishFrame_finishes n
    have h1 := expireTimes_expires n hf x.unreached xs (applyReached (leaveScanning x s))
    rw [finishFrame, if_pos h]
    dsimp only
    generalize expireTimes (finishFrame n) x.unreached xs (applyReached (leaveScanning x s)) = r at h1 ⊢
    have h2 := expireTimes_expires n hf x.left r.1 (reachEngine r.2)
    generalize expireTimes (finishFrame n) x.left r.1 (reachEngine r.2) = r' at h2 ⊢
    refine ⟨leaveScanning x s, _, r.2, reachEngine r.2, r'.2, r.1, r'.1, leaveScanning_ends x s,
      applyReached_applies (leaveScanning_between x s), h1, reachEngine_reaches r.2, h2, fun hs => ?_, fun hs hw w he => ?_⟩
    · have : ¬ (r'.2.eng.startPending = true ∧ r'.2.eng.frameState = .waiting) := fun ⟨h1, h2⟩ =>
        hs.elim (fun h => by simp [h] at h1) (fun h => h h2)
      rw [if_neg this]
      exact ⟨rfl, rfl⟩
    · rw [if_pos ⟨hs, hw⟩, ← he]
      exact admissionCheck_finishes n r'.1 w hf

/-- The scan engine's part of the stop order. -/
theorem stopScan_stops (s : State) : s.ScanStopped (stopScan s) := by
  refine ⟨fun h => ?_, fun h ⟨v, hv⟩ => ?_, fun h hv => ?_⟩
  · simp [stopScan, h]
  · simp [stopScan, h, hv]
  · refine ⟨leaveCut (withdrawScan (s.setEng { s.eng with frameTimer := none })), leaveCut_ends _, ?_⟩
    have e : stopScan s = cutEnd (withdrawScan (s.setEng { s.eng with frameTimer := none })) := by
      unfold stopScan
      rw [h]
      cases hg : s.arb.grant with
      | scan v => exact absurd hg (hv v)
      | _ => rfl
    rw [e]
    exact applyWaiting_applies (by simp [State.betweenFrames, leaveCut])

/-- The spot unit's part of the stop order. -/
theorem orderSpotEnd_stops (s : State) : s.SpotStopped (orderSpotEnd .aborted s) := by
  unfold orderSpotEnd
  refine ⟨fun h hs => ?_, fun h sums hs => ?_, fun hq hc => ?_, ?_⟩
  · rw [hs]
    have he {ws : List SpotWrite} {x : State} : (pushSpots ws x).eng = x.eng := by simp
    have hp {ws : List SpotWrite} {x : State} (q : PointId) : (pushSpots ws x).point q = x.point q := by simp [State.point]
    simp only [endSpot]
    refine ⟨?_, by simp [withdrawSpot, State.setBusy], ?_, fun q hq => ?_, ?_⟩
    · rw [pushSpots_spt]
      rfl
    · rw [hp]
      exact State.point_setPoint_same (withdrawSpot s) h.point _
    · rw [hp]
      exact State.point_setPoint_other (withdrawSpot s) hq _
    · rw [he]
      rfl
  · rw [hs]
  · split <;> first | rfl | (rename_i h; exact absurd h (hq _)) | (rename_i h; exact absurd h (hc _ _))
  · split <;> simp

/-- The walker's part of the stop order. -/
theorem stopWalker_stops (s : State) : s.WalkerStopped (stopWalker s) := by
  unfold stopWalker
  dsimp only
  refine ⟨fun h => ?_, fun h hw => ?_, fun hr hs hu => ?_⟩
  · rw [h]
    rfl
  · rcases hw with hw | ⟨p, m, hw, hp⟩
    · rw [hw]
      rfl
    · rw [hw]
      simp only [hp]
      rfl
  · split
    · rename_i h
      exact absurd h hr
    · rename_i h
      exact absurd h (hs _)
    · rename_i h hw
      split
      · rename_i hp
        exact absurd ⟨hw, hp⟩ (hu _ _ _)
      · rfl
    · rfl

end Sys2Proof.Machine
end

