-- ==== Sys2Proof/Laws/Faults.lean ====
section
/-! SUPPORT. A memory fault together with an event of the scan engine (R166): what the event leads to, and that no report behind the entry to FAULTED is taken, whichever operation makes it. -/

namespace Sys2Proof.Machine

/-! ### An entry to FAULTED before the reports of an event (R166) -/

/-- No report is taken behind the entry. -/
theorem updatePoint_entryFirst {s : State} (h : s.out.entryAfter = some 0) (p : PointId) (x : Point) :
    (s.updatePoint p x).out = s.out := by
  rw [State.updatePoint_out]
  split
  · rfl
  · simp [OutputUnit.report, h]

/-- A slot begun behind the entry. -/
theorem startSlot_entryFirst {s : State} (h : s.out.entryAfter = some 0) (p : PointId) : (startSlot p s).out = s.out := by
  unfold startSlot
  dsimp only
  split <;> simp [updatePoint_entryFirst h]

/-- The slots of a frame behind the entry. -/
theorem runSlots_entryFirst {s : State} (h : s.out.entryAfter = some 0) : ∀ ps : List PointId, (runSlots ps s).out = s.out
  | [] => rfl
  | p :: ps => by
    unfold runSlots
    split
    · exact startSlot_entryFirst h p
    · exact runSlots_entryFirst h ps

/-- An admission check behind the entry. -/
theorem admissionCheck_entryFirst {s : State} (h : s.out.entryAfter = some 0) : (admissionCheck s).out = s.out := by
  have k := askRoom_keeps s s.eng.reservation
  unfold admissionCheck
  generalize askRoom s.eng.reservation s = x at k
  obtain ⟨b, u⟩ := x
  have ko : u.out = s.out := k.2.2.2.2.2.2.1
  cases b
  · simp [skipFrame, ko]
  · simp only [beginFrame]
    rw [runSlots_entryFirst] <;> simp [ko, h]

/-- A boundary request applied behind the entry. -/
theorem applyWaiting_entryFirst {s : State} (h : s.out.entryAfter = some 0) : (applyWaiting s).out = s.out := by
  have ha (p : PointId) : (abortSpotOn p s).out.entryAfter = some 0 := by simp [h]
  unfold applyWaiting
  split
  · rename_i hd r hf
    have hb := (State.awaits_of_found hf).2.2
    cases r <;> simp [Request.cls] at hb <;> unfold applyBoundary
    · simp [applyConfigPoint, updatePoint_entryFirst (ha _)]
    · simp [applyReleasePoint, updatePoint_entryFirst (ha _)]
    all_goals simp
  · rfl

/-- A boundary request that has waited, applied behind the entry. -/
theorem applyReached_entryFirst {s : State} (h : s.out.entryAfter = some 0) : (applyReached s).out = s.out := by
  unfold applyReached
  split
  · exact applyWaiting_entryFirst h
  · rfl

/-- A boundary request that reaches the engine behind the entry. -/
theorem reachEngine_entryFirst {s : State} (h : s.out.entryAfter = some 0) : (reachEngine s).out = s.out := by
  unfold reachEngine
  split
  · exact applyWaiting_entryFirst h
  · rfl

/-- A frame's end behind the entry. -/
theorem leaveScanning_entryFirst {s : State} (h : s.out.entryAfter = some 0) (x : EndExpiries) :
    (applyWaiting (leaveScanning x s)).out = s.out := by
  rw [applyWaiting_entryFirst] <;> simp [h]

/-- A frame that ends behind the entry, and the next begun. -/
theorem finishPlain_entryFirst {s : State} (h : s.out.entryAfter = some 0) : (finishPlain s).out = s.out := by
  have he {u : State} (hu : u.out = s.out) : (endFrame u).out = s.out :=
    (leaveScanning_entryFirst (by rw [hu, h]) .zero).trans hu
  have ha {u : State} (hu : u.out = s.out) : (admissionCheck u).out = s.out :=
    (admissionCheck_entryFirst (by rw [hu, h])).trans hu
  have h1 := he (u := s) rfl
  unfold finishPlain
  dsimp only
  (repeat' split)
  · exact he (ha h1)
  · exact ha h1
  · exact h1
  · rfl

/-- An expiry behind the entry. -/
theorem expire_entryFirst {finish : List EndExpiries → State → List EndExpiries × State}
    (hf : ∀ (l : List EndExpiries) (x : State), x.out.entryAfter = some 0 → (finish l x).2.out = x.out)
    {s : State} (h : s.out.entryAfter = some 0) (ends : List EndExpiries) : (expire finish ends s).2.out = s.out := by
  unfold expire
  (repeat' split) <;> try rfl
  have ha := admissionCheck_entryFirst (s := s.setEng s.eng.restarted) h
  rw [hf _ _ (by rw [ha]; exact h), ha]
  rfl

/-- Expiries behind the entry. -/
theorem expireTimes_entryFirst {finish : List EndExpiries → State → List EndExpiries × State}
    (hf : ∀ (l : List EndExpiries) (x : State), x.out.entryAfter = some 0 → (finish l x).2.out = x.out) :
    ∀ (n : Nat) {s : State} (_ : s.out.entryAfter = some 0) (ends : List EndExpiries), (expireTimes finish n ends s).2.out = s.out
  | 0, _, _, _ => rfl
  | n + 1, s, h, ends => by
    have he := expire_entryFirst hf h ends
    unfold expireTimes
    rw [expireTimes_entryFirst hf n (by rw [he]; exact h), he]

/-- The ends of frames behind the entry, with the expiries inside them. -/
theorem finishFrame_entryFirst : ∀ (n : Nat) (ends : List EndExpiries) (s : State), s.out.entryAfter = some 0 →
    (finishFrame n ends s).2.out = s.out
  | 0, _, _, h => finishPlain_entryFirst h
  | _ + 1, [], _, h => finishPlain_entryFirst h
  | n + 1, x :: xs, s, h => by
    have hf := finishFrame_entryFirst n
    unfold finishFrame
    dsimp only
    have hw : (applyReached (leaveScanning x s)).out = s.out := (applyReached_entryFirst (by simpa using h)).trans (by simp)
    have h1 := expireTimes_entryFirst hf x.unreached (s := applyReached (leaveScanning x s)) (by rw [hw, h]) xs
    generalize expireTimes (finishFrame n) x.unreached xs (applyReached (leaveScanning x s)) = r at h1 ⊢
    have h1' : r.2.out = s.out := h1.trans hw
    have hr : (reachEngine r.2).out = s.out := (reachEngine_entryFirst (by rw [h1', h])).trans h1'
    have h2 := expireTimes_entryFirst hf x.left (s := reachEngine r.2) (by rw [hr, h]) r.1
    generalize expireTimes (finishFrame n) x.left r.1 (reachEngine r.2) = r' at h2 ⊢
    have h2' := h2.trans hr
    (repeat' split)
    · have ha := admissionCheck_entryFirst (s := r'.2.setEng { r'.2.eng with startPending := false }) (by simpa [h2'] using h)
      rw [hf _ _ (by rw [ha]; simpa [h2'] using h), ha]
      exact h2'
    · exact h2'
    · rfl

/-- A measurement behind the entry. -/
theorem measurePoint_entryFirst {s : State} (h : s.out.entryAfter = some 0) (p : PointId) (c : Half) :
    (measurePoint p c s).out = s.out := by
  unfold measurePoint
  simp [updatePoint_entryFirst h]

/-- The end of a cut frame behind the entry. -/
theorem cutEnd_entryFirst {s : State} (h : s.out.entryAfter = some 0) : (cutEnd s).out = s.out := by
  unfold cutEnd
  rw [applyWaiting_entryFirst] <;> simp [h]

/-- A conversion that completes behind the entry. -/
theorem scanConversion_entryFirst {s : State} (h : s.out.entryAfter = some 0) (c : Half) (ends : List EndExpiries) :
    (scanConversion c ends s).out = s.out := by
  unfold scanConversion
  split
  · rename_i p _ _
    have hm : (releaseConverter (measurePoint p c s)).out = s.out := by simp [measurePoint_entryFirst h]
    dsimp only
    generalize releaseConverter (measurePoint p c s) = u at hm ⊢
    have hu : u.out.entryAfter = some 0 := by rw [hm, h]
    split
    · have hs := runSlots_entryFirst hu (pointsAfter p)
      rw [finishFrame_entryFirst _ _ _ (by rw [hs]; exact hu), hs, hm]
    · rw [cutEnd_entryFirst hu, hm]
    · exact hm
    · exact hm
  · rfl

/-- With the entry to FAULTED before every report an event of the scan engine leaves the output unit alone (R166). -/
theorem carryOut_entryFirst {s : State} (h : s.out.entryAfter = some 0) (e : ScanEvent) : (carryOut e s).out = s.out := by
  unfold carryOut
  split
  · rw [(scanEvent_units s _).2.2.2.2.2.2.1]
    exact (scanConversion_entryFirst (s := s.eventBegun) (by simpa using h) _ _).trans (by simp)
  · rw [(scanEvent_units s _).2.2.2.2.2.2.1]
    exact (expire_entryFirst (s := s.eventBegun) (fun l x hx => finishFrame_entryFirst _ l x hx) (by simpa using h) _).trans
      (by simp)
  · split
    · exact applyWaiting_entryFirst h
    · rfl
  · split
    · unfold stopOrder
      simp only [stopWalker_keeps, orderSpotEnd_keeps]
      unfold stopScan
      dsimp only
      (repeat' split) <;> try rfl
      · rw [cutEnd_entryFirst] <;> simp [h]
      · rw [cutEnd_entryFirst] <;> simp [h]
    · rfl

/-- What an event of the scan engine leads to, its own command's work (R42, R112, R121, R172). -/
theorem carryOut_led (e : ScanEvent) (s : State) : s.LedBy e (carryOut e s) := by
  unfold State.LedBy
  cases e with
  | scanConversion c ends => rfl
  | frameExpiry ends => rfl
  | boundary =>
    refine ⟨fun hb => ?_, fun hb => ?_⟩
    · rw [carryOut, if_pos hb]
      exact applyWaiting_applies hb
    · simp [carryOut, hb]
  | stopOrder =>
    refine ⟨fun ho => if_neg ho, fun ho => ?_⟩
    rw [carryOut, if_pos ho]
    exact ⟨_, _, stopScan_stops _, orderSpotEnd_stops _, stopWalker_stops _⟩

/-! ### What a memory fault does, spelled out (R12) -/

/-- A memory fault of the access on the interconnect does what Safety.lean spells out. -/
theorem memoryFault_faults {s : State} {a : Access} {rest : List Access} (hp : s.port = a :: rest) {kind : FaultKind}
    {cause : Cause} {bit : BitVec 3} (hc : cause = .memError ∧ bit = 1 ∨ cause = .memTimeout ∧ bit = 2) :
    s.FaultedBy a kind bit (memoryFault kind cause s) := by
  unfold memoryFault
  rw [hp]
  refine ⟨by simp [faultUnits, raise], rfl, abandonAccesses_port _ s, by simp [faultUnits, raise], by simp [faultUnits, raise],
    ⟨rfl, rfl, rfl⟩, by simp [faultUnits, raise], rfl, rfl, by simp [faultUnits, raise], rfl, fun n => ?_, ?_⟩
  · simp only [faultUnits, raise, State.setAtn_out, State.setCtl_out, abandonAccesses_keeps]
    cases h : (s.out.lines[n]).faultLevel <;> simp only [Line.faulted, Fin.getElem_fin, Vector.getElem_ofFn] <;>
      simp only [Fin.getElem_fin] at h <;> rw [h]
    simp [← h]
  · rcases hc with ⟨rfl, rfl⟩ | ⟨rfl, rfl⟩ <;>
      simp [faultUnits, raise, Attention.raise, Attention.setCls, Attention.cls, Cause.cls, Cause.bit, nextTripIndex]

end Sys2Proof.Machine
end

