-- ==== Sys2Proof/Laws/Parse.lean ====
section
/-! SUPPORT. What the walker reads from a block: each field's reader by its range, and the checks and operands of the kinds by the byte offsets that Safety.lean spells out. -/

namespace Sys2Proof.Machine

/-! ### The readers of one field -/

theorem boolOf_none {b : Byte} : boolOf b = none ↔ 1 < b.toNat := by
  unfold boolOf
  split
  · simp [*]
  · split <;> simp_all [← BitVec.toNat_inj] <;> omega

theorem boolOf_some {b : Byte} {x : Bool} (h : boolOf b = some x) : b.toNat ≤ 1 ∧ x = decide (b.toNat = 1) := by
  unfold boolOf at h
  split at h
  · simp_all
  · split at h <;> simp_all

theorem ownerOf_none {b : Byte} : ownerOf b = none ↔ 1 < b.toNat := by
  unfold ownerOf
  split
  · simp [*]
  · split <;> simp_all [← BitVec.toNat_inj] <;> omega

theorem ownerOf_some {b : Byte} {x : Owner} (h : ownerOf b = some x) :
    b.toNat ≤ 1 ∧ x = if b.toNat = 0 then .direct else .linked := by
  unfold ownerOf at h
  split at h
  · simp_all
  · split at h <;> simp_all

theorem driveOf_none {b : Byte} : driveOf b = none ↔ 2 < b.toNat := by
  unfold driveOf
  (repeat' split) <;> simp_all [← BitVec.toNat_inj] <;> omega

theorem driveOf_some {b : Byte} {x : Drive} (h : driveOf b = some x) :
    b.toNat ≤ 2 ∧ x = if b.toNat = 0 then .off else if b.toNat = 1 then .pushPullHigh else .openDrainLow := by
  unfold driveOf at h
  (repeat' split at h) <;> simp_all

theorem faultLevelOf_none {b : Byte} : faultLevelOf b = none ↔ 2 < b.toNat := by
  unfold faultLevelOf
  (repeat' split) <;> simp_all [← BitVec.toNat_inj] <;> omega

theorem faultLevelOf_some {b : Byte} {x : FaultLevel} (h : faultLevelOf b = some x) :
    b.toNat ≤ 2 ∧ x = if b.toNat = 0 then .hold else if b.toNat = 1 then .inactive else .active := by
  unfold faultLevelOf at h
  (repeat' split at h) <;> simp_all

theorem calModeOf_none {b : Byte} : calModeOf b = none ↔ 2 < b.toNat := by
  unfold calModeOf
  (repeat' split) <;> simp_all [← BitVec.toNat_inj] <;> omega

theorem calModeOf_some {b : Byte} {x : CalMode} (h : calModeOf b = some x) :
    b.toNat ≤ 2 ∧ x = if b.toNat = 0 then .none else if b.toNat = 1 then .offset else .full := by
  unfold calModeOf at h
  (repeat' split at h) <;> simp_all

theorem directionOf_none {b : Byte} : directionOf b = none ↔ 2 < b.toNat := by
  unfold directionOf
  (repeat' split) <;> simp_all [← BitVec.toNat_inj] <;> omega

theorem directionOf_some {b : Byte} {x : Direction} (h : directionOf b = some x) :
    b.toNat ≤ 2 ∧ x = if b.toNat = 0 then .rising else if b.toNat = 1 then .falling else .either := by
  unfold directionOf at h
  (repeat' split at h) <;> simp_all

theorem linkStatesOf_none {b : Byte} : linkStatesOf b = none ↔ 7 < b.toNat := by
  unfold linkStatesOf
  split <;> simp_all [BitVec.lt_def] <;> omega

theorem linkStatesOf_some {b : Byte} {x : LinkStates} (h : linkStatesOf b = some x) :
    b.toNat ≤ 7 ∧ x = ⟨b.getLsbD 0, b.getLsbD 1, b.getLsbD 2⟩ := by
  unfold linkStatesOf at h
  split at h <;> simp_all [BitVec.lt_def]
  omega

theorem pointOf_none {b : Byte} : pointOf b = none ↔ 31 < b.toNat := by
  unfold pointOf
  split <;> simp <;> omega

theorem pointOf_some {b : Byte} {p : PointId} (h : pointOf b = some p) : p.val = b.toNat := by
  unfold pointOf at h
  split at h <;> simp at h
  rw [← h]

theorem groupIndexOf_none {b : Byte} : groupIndexOf b = none ↔ 3 < b.toNat := by
  unfold groupIndexOf
  split <;> simp <;> omega

theorem groupIndexOf_some {b : Byte} {i : Fin 4} (h : groupIndexOf b = some i) : i.val = b.toNat := by
  unfold groupIndexOf at h
  split at h <;> simp at h
  rw [← h]

theorem lineOf_none {b : Byte} : lineOf b = none ↔ 7 < b.toNat := by
  unfold lineOf
  split <;> simp <;> omega

theorem lineOf_some {b : Byte} {n : Fin 8} (h : lineOf b = some n) : n.val = b.toNat := by
  unfold lineOf at h
  split at h <;> simp at h
  rw [← h]

theorem inRange_none {lo hi n : Nat} : inRange lo hi n = none ↔ n < lo ∨ hi < n := by
  unfold inRange
  split <;> simp <;> omega

theorem tuningOf_none {c f o : Nat} : tuningOf c f o = none ↔ 15 < c ∨ 31 < f ∨ 1023 < o := by
  unfold tuningOf
  split <;> simp <;> omega

theorem tuningOf_some {c f o : Nat} {x : Tuning} (h : tuningOf c f o = some x) :
    c ≤ 15 ∧ f ≤ 31 ∧ o ≤ 1023 ∧ x = ⟨BitVec.ofNat 4 c, BitVec.ofNat 5 f, BitVec.ofNat 10 o⟩ := by
  unfold tuningOf at h
  split at h <;> simp at h
  exact ⟨by omega, by omega, by omega, h.symm⟩

theorem referenceOf_none {b : Byte} : referenceOf b = none ↔ 31 < b.toNat ∧ b.toNat ≠ 255 := by
  unfold referenceOf
  split
  · simp [*]
  · simp_all [← BitVec.toNat_inj, pointOf_none]

theorem referenceOf_some {b : Byte} {r : Option PointId} (h : referenceOf b = some r) :
    (r = none ↔ b.toNat = 255) ∧ ∀ p, r = some p → p.val = b.toNat := by
  unfold referenceOf at h
  split at h
  · simp_all
    subst h
    simp
  · rename_i hb
    simp [← BitVec.toNat_inj] at hb
    obtain ⟨p, hp, rfl⟩ := Option.map_eq_some_iff.1 h
    exact ⟨by simp [hb], fun q hq => by simp at hq; subst hq; exact pointOf_some hp⟩

/-! ### The kinds -/

/-- What a kind's reader says of a block: it refuses exactly the blocks that fail the kind's checks, and what it reads is
what the block holds, of the kind's class. -/
def ReadsKind (b : Vector Word 16) (boundary : Bool) (o : Option Request) : Prop :=
  (o = none ↔ ContentFails b) ∧ ∀ r, o = some r → r.ReadFrom b ∧ (r.cls = .boundary ↔ boundary = true)

/-- A reader that refuses a block which fails. -/
theorem ReadsKind.refused {b : Vector Word 16} {boundary : Bool} (h : ContentFails b) : ReadsKind b boundary none :=
  ⟨iff_of_true rfl h, fun _ h => by simp at h⟩

/-- A reader that takes a block which passes. -/
theorem ReadsKind.taken {b : Vector Word 16} {boundary : Bool} {r : Request} (h : ¬ ContentFails b) (hr : r.ReadFrom b)
    (hc : r.cls = .boundary ↔ boundary = true) : ReadsKind b boundary (some r) :=
  ⟨iff_of_false (by simp) h, fun x hx => by simp at hx; subst hx; exact ⟨hr, hc⟩⟩

theorem configOutputOf_reads {b : Vector Word 16} (hk : (blockByte b 5).toNat = 1) : ReadsKind b false (configOutputOf b) := by
  have hc : ContentFails b ↔ 7 < (blockByte b 16).toNat ∨ 1 < (blockByte b 17).toNat ∨ 2 < (blockByte b 18).toNat ∨
      2 < (blockByte b 19).toNat ∨ 1 < (blockByte b 20).toNat ∨ 7 < (blockByte b 21).toNat := by
    simp only [ContentFails, hk]
  unfold configOutputOf
  rcases h1 : lineOf (blockByte b 16) with _ | line
  · exact .refused (hc.2 (by have := lineOf_none.1 h1; omega))
  rcases h2 : ownerOf (blockByte b 17) with _ | owner
  · exact .refused (hc.2 (by have := ownerOf_none.1 h2; omega))
  rcases h3 : driveOf (blockByte b 18) with _ | drive
  · exact .refused (hc.2 (by have := driveOf_none.1 h3; omega))
  rcases h4 : faultLevelOf (blockByte b 19) with _ | faultLevel
  · exact .refused (hc.2 (by have := faultLevelOf_none.1 h4; omega))
  rcases h5 : boolOf (blockByte b 20) with _ | level
  · exact .refused (hc.2 (by have := boolOf_none.1 h5; omega))
  rcases h6 : linkStatesOf (blockByte b 21) with _ | linkStates
  · exact .refused (hc.2 (by have := linkStatesOf_none.1 h6; omega))
  obtain ⟨k2, rfl⟩ := ownerOf_some h2
  obtain ⟨k3, rfl⟩ := driveOf_some h3
  obtain ⟨k4, rfl⟩ := faultLevelOf_some h4
  obtain ⟨k5, rfl⟩ := boolOf_some h5
  obtain ⟨k6, rfl⟩ := linkStatesOf_some h6
  have k1 := lineOf_some h1
  have := line.isLt
  exact .taken (fun hf => by have := hc.1 hf; omega) ⟨hk, k1, rfl⟩ (by simp [Request.cls])

theorem setOutputsOf_reads {b : Vector Word 16} (hk : (blockByte b 5).toNat = 2) : ReadsKind b false (setOutputsOf b) := by
  have hc : ContentFails b ↔ ∃ n : Fin 8, (blockByte b 16).getLsbD n.val = true ∧ 1 < (blockByte b (24 + n.val)).toNat := by
    simp only [ContentFails, hk]
  unfold setOutputsOf
  dsimp only
  split
  · rename_i h
    refine .taken (fun hf => ?_) ⟨hk, rfl, fun n => ?_⟩ (by simp [Request.cls])
    · obtain ⟨n, h1, h2⟩ := hc.1 hf
      have hn := List.all_eq_true.1 h n (List.mem_finRange n)
      rw [h1, boolOf_none.2 h2] at hn
      simp at hn
    · simp only [Fin.getElem_fin, Vector.getElem_ofFn]
      exact decide_eq_decide.2 (BitVec.toNat_inj (x := blockByte b (24 + n.val)) (y := 1)).symm
  · rename_i h
    refine .refused (hc.2 ?_)
    simp at h
    obtain ⟨n, h1, h2⟩ := h
    exact ⟨n, h1, boolOf_none.1 h2⟩

theorem reclaimPagesOf_reads {b : Vector Word 16} (hk : (blockByte b 5).toNat = 4) : ReadsKind b false (reclaimPagesOf b) := by
  have hc : ContentFails b ↔ (blockField b 52).toNat = 0 ∨ 8 < (blockField b 52).toNat := by simp only [ContentFails, hk]
  unfold reclaimPagesOf
  rcases h1 : inRange 1 8 (blockField b 52).toNat with _ | limit
  · exact .refused (hc.2 (by have := inRange_none.1 h1; omega))
  obtain ⟨rfl, _, _⟩ := inRange_some h1
  exact .taken (fun hf => by have := hc.1 hf; omega) ⟨hk, rfl⟩ (by simp [Request.cls])

theorem releasePointOf_reads {b : Vector Word 16} (hk : (blockByte b 5).toNat = 7) : ReadsKind b true (releasePointOf b) := by
  have hc : ContentFails b ↔ 31 < (blockByte b 16).toNat := by simp only [ContentFails, hk]
  unfold releasePointOf
  rcases h1 : pointOf (blockByte b 16) with _ | p
  · exact .refused (hc.2 (pointOf_none.1 h1))
  have k1 := pointOf_some h1
  have := p.isLt
  exact .taken (fun hf => by have := hc.1 hf; omega) ⟨hk, k1⟩ (by simp [Request.cls])

theorem setTimingOf_reads {b : Vector Word 16} (hk : (blockByte b 5).toNat = 9) : ReadsKind b true (setTimingOf b) := by
  have hc : ContentFails b ↔ (blockField b 16).toNat = 0 ∨ 1000 < (blockField b 16).toNat ∨
      (blockField b 20).toNat < (blockField b 16).toNat ∨ 10000 < (blockField b 20).toNat ∨ 65535 < (blockField b 24).toNat ∨
      60000 < (blockField b 28).toNat := by
    simp only [ContentFails, hk]
  unfold setTimingOf
  rcases h1 : inRange 1 1000 (blockField b 16).toNat with _ | brisk
  · exact .refused (hc.2 (by have := inRange_none.1 h1; omega))
  obtain ⟨rfl, _, _⟩ := inRange_some h1
  dsimp only [bind, Option.bind]
  rcases h2 : inRange (blockField b 16).toNat 10000 (blockField b 20).toNat with _ | drowsy
  · exact .refused (hc.2 (by have := inRange_none.1 h2; omega))
  rcases h3 : inRange 0 65535 (blockField b 24).toNat with _ | drowsyAfter
  · exact .refused (hc.2 (by have := inRange_none.1 h3; omega))
  rcases h4 : inRange 0 60000 (blockField b 28).toNat with _ | linger
  · exact .refused (hc.2 (by have := inRange_none.1 h4; omega))
  obtain ⟨rfl, _, _⟩ := inRange_some h2
  obtain ⟨rfl, _, _⟩ := inRange_some h3
  obtain ⟨rfl, _, _⟩ := inRange_some h4
  exact .taken (fun hf => by have := hc.1 hf; omega) ⟨hk, rfl⟩ (by simp [Request.cls])

theorem configPointOf_reads {b : Vector Word 16} (hk : (blockByte b 5).toNat = 6) : ReadsKind b true (configPointOf b) := by
  have hc : ContentFails b ↔ 31 < (blockByte b 16).toNat ∨ (blockByte b 17).toNat = 0 ∨ 16 < (blockByte b 17).toNat ∨
      2 < (blockByte b 18).toNat ∨ 2 < (blockByte b 19).toNat ∨ (blockHalf b 20).toNat < 64 ∨ 60000 < (blockHalf b 20).toNat ∨
      (blockHalf b 22).toNat = 0 ∨ 4095 < (blockHalf b 22).toNat ∨ 15 < (blockByte b 24).toNat ∨ 31 < (blockByte b 25).toNat ∨
      1023 < (blockHalf b 26).toNat ∨ (blockHalf b 28).toNat = 0 ∨ 4095 < (blockHalf b 28).toNat ∨
      (blockHalf b 28).toNat ≤ (blockHalf b 30).toNat ∨ 15 < (blockByte b 32).toNat ∨ 15 < (blockByte b 33).toNat ∨
      (blockByte b 34).toNat = 0 ∨ 15 < (blockByte b 34).toNat ∨ (blockByte b 35).toNat = 0 ∨
      (blockByte b 34).toNat < (blockByte b 35).toNat ∨ 1 < (blockByte b 38).toNat ∨ 1 < (blockByte b 39).toNat ∨
      1 < (blockByte b 40).toNat := by
    simp only [ContentFails, hk]
  unfold configPointOf
  rcases h1 : pointOf (blockByte b 16) with _ | p
  · exact .refused (hc.2 (by have := pointOf_none.1 h1; omega))
  have k1 := pointOf_some h1
  have := p.isLt
  rcases h2 : inRange 1 16 (blockByte b 17).toNat with _ | integration
  · exact .refused (hc.2 (by have := inRange_none.1 h2; omega))
  rcases h3 : calModeOf (blockByte b 18) with _ | calMode
  · exact .refused (hc.2 (by have := calModeOf_none.1 h3; omega))
  rcases h4 : directionOf (blockByte b 19) with _ | direction
  · exact .refused (hc.2 (by have := directionOf_none.1 h4; omega))
  rcases h5 : inRange 64 60000 (blockHalf b 20).toNat with _ | calTarget
  · exact .refused (hc.2 (by have := inRange_none.1 h5; omega))
  rcases h6 : inRange 1 4095 (blockHalf b 22).toNat with _ | calBand
  · exact .refused (hc.2 (by have := inRange_none.1 h6; omega))
  rcases h7 : tuningOf (blockByte b 24).toNat (blockByte b 25).toNat (blockHalf b 26).toNat with _ | gains
  · exact .refused (hc.2 (by have := tuningOf_none.1 h7; omega))
  rcases h8 : inRange 1 4095 (blockHalf b 28).toNat with _ | threshold
  · exact .refused (hc.2 (by have := inRange_none.1 h8; omega))
  obtain ⟨rfl, _, _⟩ := inRange_some h8
  dsimp only [bind, Option.bind]
  rcases h9 : inRange 0 ((blockHalf b 28).toNat - 1) (blockHalf b 30).toNat with _ | hysteresis
  · exact .refused (hc.2 (by have := inRange_none.1 h9; omega))
  rcases h10 : inRange 0 15 (blockByte b 32).toNat with _ | enterDebounce
  · exact .refused (hc.2 (by have := inRange_none.1 h10; omega))
  rcases h11 : inRange 0 15 (blockByte b 33).toNat with _ | exitDebounce
  · exact .refused (hc.2 (by have := inRange_none.1 h11; omega))
  rcases h12 : inRange 1 15 (blockByte b 34).toNat with _ | slowBeta
  · exact .refused (hc.2 (by have := inRange_none.1 h12; omega))
  obtain ⟨rfl, _, _⟩ := inRange_some h12
  dsimp only
  rcases h13 : inRange 1 (blockByte b 34).toNat (blockByte b 35).toNat with _ | fastBeta
  · exact .refused (hc.2 (by have := inRange_none.1 h13; omega))
  rcases h14 : boolOf (blockByte b 38) with _ | autoRecalibrate
  · exact .refused (hc.2 (by have := boolOf_none.1 h14; omega))
  rcases h15 : boolOf (blockByte b 39) with _ | urgent
  · exact .refused (hc.2 (by have := boolOf_none.1 h15; omega))
  rcases h16 : boolOf (blockByte b 40) with _ | verbose
  · exact .refused (hc.2 (by have := boolOf_none.1 h16; omega))
  obtain ⟨rfl, _, _⟩ := inRange_some h2
  obtain ⟨_, rfl⟩ := calModeOf_some h3
  obtain ⟨_, rfl⟩ := directionOf_some h4
  obtain ⟨rfl, _, _⟩ := inRange_some h5
  obtain ⟨rfl, _, _⟩ := inRange_some h6
  obtain ⟨_, _, _, rfl⟩ := tuningOf_some h7
  obtain ⟨rfl, _, _⟩ := inRange_some h9
  obtain ⟨rfl, _, _⟩ := inRange_some h10
  obtain ⟨rfl, _, _⟩ := inRange_some h11
  obtain ⟨rfl, _, _⟩ := inRange_some h13
  obtain ⟨_, rfl⟩ := boolOf_some h14
  obtain ⟨_, rfl⟩ := boolOf_some h15
  obtain ⟨_, rfl⟩ := boolOf_some h16
  exact .taken (fun hf => by have := hc.1 hf; omega) ⟨hk, k1, rfl⟩ (by simp [Request.cls])

theorem configGroupOf_reads {b : Vector Word 16} (hk : (blockByte b 5).toNat = 8) : ReadsKind b true (configGroupOf b) := by
  have hc : ContentFails b ↔ 3 < (blockByte b 16).toNat ∨ (31 < (blockByte b 17).toNat ∧ (blockByte b 17).toNat ≠ 255) ∨
      ((blockByte b 17).toNat ≤ 31 ∧ (blockField b 20).getLsbD (blockByte b 17).toNat = false) ∨ 512 < (blockHalf b 24).toNat ∨
      1 < (blockByte b 18).toNat := by
    simp only [ContentFails, hk]
  unfold configGroupOf
  rcases h1 : groupIndexOf (blockByte b 16) with _ | i
  · exact .refused (hc.2 (Or.inl (groupIndexOf_none.1 h1)))
  rcases h2 : referenceOf (blockByte b 17) with _ | reference
  · exact .refused (hc.2 (Or.inr (Or.inl (referenceOf_none.1 h2))))
  obtain ⟨k2, k3⟩ := referenceOf_some h2
  rcases h3 : boolOf (blockByte b 18) with _ | halt
  · exact .refused (hc.2 (by have := boolOf_none.1 h3; omega))
  rcases h4 : inRange 0 512 (blockHalf b 24).toNat with _ | weight
  · exact .refused (hc.2 (by have := inRange_none.1 h4; omega))
  obtain ⟨_, rfl⟩ := boolOf_some h3
  obtain ⟨rfl, _, _⟩ := inRange_some h4
  have k1 := groupIndexOf_some h1
  have := i.isLt
  dsimp only [bind, Option.bind]
  split
  · rename_i hm
    refine .taken (fun hf => ?_) ⟨hk, k1, k2, k3, rfl, rfl, rfl⟩ (by simp [Request.cls])
    rcases hc.1 hf with h | h | h | h | h
    · omega
    · rw [referenceOf_none.2 h] at h2
      simp at h2
    · rcases reference with _ | p
      · have := k2.1 rfl
        omega
      · have hp := k3 p rfl
        simp [inSet, hp, h.2] at hm
    · omega
    · omega
  · rename_i hm
    rcases reference with _ | p
    · simp at hm
    · have hp := k3 p rfl
      have := p.isLt
      simp [inSet, hp] at hm
      exact .refused (hc.2 (Or.inr (Or.inr (Or.inl ⟨by omega, hm⟩))))

theorem snapshotOf_reads {b : Vector Word 16} (hk : (blockByte b 5).toNat = 12) : ReadsKind b true (snapshotOf b) := by
  have hc : ContentFails b ↔ (blockField b 16).toNat % 32 ≠ 0 ∨
      2 ^ 32 < (blockField b 16).toNat + 32 * setSize (blockField b 20) := by
    simp only [ContentFails, hk]
    rfl
  unfold snapshotOf
  dsimp only
  split
  · exact .taken (fun hf => by have := hc.1 hf; omega) ⟨hk, rfl, rfl⟩ (by simp [Request.cls])
  · exact .refused (hc.2 (by omega))

theorem givePagesOf_reads {b : Vector Word 16} (hk : (blockByte b 5).toNat = 3) : ReadsKind b false (givePagesOf b) := by
  have hc : ContentFails b ↔ (blockByte b 16).toNat = 0 ∨ 8 < (blockByte b 16).toNat ∨
      (∃ i, i < (blockByte b 16).toNat ∧
        ((blockField b (20 + 4 * i)).toNat = 0 ∨ (blockField b (20 + 4 * i)).toNat % 4096 ≠ 0)) ∨
      ∃ i j, i < j ∧ j < (blockByte b 16).toNat ∧
        (blockField b (20 + 4 * i)).toNat = (blockField b (20 + 4 * j)).toNat := by
    simp only [ContentFails, hk]
  have ha : (countedPages b (blockByte b 16).toNat).all pageAligned = true ↔ ∀ i, i < (blockByte b 16).toNat →
      (blockField b (20 + 4 * i)).toNat ≠ 0 ∧ (blockField b (20 + 4 * i)).toNat % 4096 = 0 := by
    simp [countedPages, pageAligned, ← BitVec.toNat_inj]
  have hn : (countedPages b (blockByte b 16).toNat).Nodup ↔ ∀ i j, i < j → j < (blockByte b 16).toNat →
      (blockField b (20 + 4 * i)).toNat ≠ (blockField b (20 + 4 * j)).toNat := by
    unfold countedPages
    rw [List.nodup_iff_pairwise_ne, List.pairwise_map, List.pairwise_iff_getElem]
    simp [← BitVec.toNat_inj]
    exact ⟨fun h i j hij hj => h i j (by omega) hj hij, fun h i j hi hj hij => h i j hij hj⟩
  unfold givePagesOf
  dsimp only
  split
  · rename_i h
    rw [ha, hn] at h
    refine .taken (fun hf => ?_) ⟨hk, rfl⟩ (by simp [Request.cls])
    rcases hc.1 hf with h1 | h1 | ⟨i, h1, h2⟩ | ⟨i, j, h1, h2, h3⟩
    · omega
    · omega
    · have := h.2.2.1 i h1
      omega
    · exact h.2.2.2 i j h1 h2 h3
  · rename_i h
    rw [ha, hn] at h
    refine .refused (Classical.byContradiction fun hf => h ?_)
    rw [hc] at hf
    simp only [not_or, not_exists, not_and, Nat.not_lt] at hf
    obtain ⟨h1, h2, h3, h4⟩ := hf
    exact ⟨by omega, h2, fun i hi => ⟨(h3 i hi).1, Decidable.byContradiction (h3 i hi).2⟩, fun i j hij hj => h4 i j hij hj⟩

theorem spotOf_reads {b : Vector Word 16} (hk : (blockByte b 5).toNat = 14) : ReadsKind b false (spotOf b) := by
  have hc : ContentFails b ↔ 31 < (blockByte b 60).toNat ∨ (blockByte b 61).toNat = 0 ∨ 64 < (blockByte b 61).toNat := by
    simp only [ContentFails, hk]
  unfold spotOf
  rcases h1 : pointOf (blockByte b 60) with _ | p
  · exact .refused (hc.2 (by have := pointOf_none.1 h1; omega))
  rcases h2 : inRange 1 64 (blockByte b 61).toNat with _ | m
  · exact .refused (hc.2 (by have := inRange_none.1 h2; omega))
  obtain ⟨rfl, _, _⟩ := inRange_some h2
  have k1 := pointOf_some h1
  have := p.isLt
  exact .taken (fun hf => by have := hc.1 hf; omega) ⟨hk, k1, rfl⟩ (by simp [Request.cls])

/-- The kinds that have no check. -/
theorem uncheckedKind_passes {b : Vector Word 16}
    (hk : (blockByte b 5).toNat = 5 ∨ (blockByte b 5).toNat = 10 ∨ (blockByte b 5).toNat = 11 ∨ (blockByte b 5).toNat = 13) :
    ¬ ContentFails b := by
  rcases hk with hk | hk | hk | hk <;> simp [ContentFails, hk]

/-- What the walker reads from a block: BAD_KIND for a kind outside 1-14, BAD_PARAM for the content checks of the kind,
and else the block's own fields, of the class of the kind. -/
theorem parse_reads (b : Vector Word 16) :
    (parse b = .error .badKind ↔ (blockByte b 5).toNat = 0 ∨ 14 < (blockByte b 5).toNat) ∧
    (parse b = .error .badParam ↔ ContentFails b) ∧
    (∀ code, parse b = .error code → code = .badKind ∨ code = .badParam) ∧
    ∀ r, parse b = .ok r → r.ReadFrom b ∧ (r.cls = .boundary ↔ 6 ≤ (blockByte b 5).toNat ∧ (blockByte b 5).toNat ≤ 13) := by
  by_cases hn : (blockByte b 5).toNat = 0 ∨ 14 < (blockByte b 5).toNat
  · have hc : contentOf b = none := by
      unfold contentOf
      split <;> first | omega | rfl
    have hf : ¬ ContentFails b := by
      unfold ContentFails
      dsimp only
      split <;> first | omega | exact id
    have hp : parse b = .error .badKind := by
      unfold parse
      rw [hc]
    simp [hp, hn, hf]
  · have key : ∃ (o : Option Request) (boundary : Bool), contentOf b = some o ∧ ReadsKind b boundary o ∧
        (boundary = true ↔ 6 ≤ (blockByte b 5).toNat ∧ (blockByte b 5).toNat ≤ 13) := by
      have hcases : (blockByte b 5).toNat = 1 ∨ (blockByte b 5).toNat = 2 ∨ (blockByte b 5).toNat = 3 ∨
          (blockByte b 5).toNat = 4 ∨ (blockByte b 5).toNat = 5 ∨ (blockByte b 5).toNat = 6 ∨ (blockByte b 5).toNat = 7 ∨
          (blockByte b 5).toNat = 8 ∨ (blockByte b 5).toNat = 9 ∨ (blockByte b 5).toNat = 10 ∨ (blockByte b 5).toNat = 11 ∨
          (blockByte b 5).toNat = 12 ∨ (blockByte b 5).toNat = 13 ∨ (blockByte b 5).toNat = 14 := by
        omega
      rcases hcases with hk | hk | hk | hk | hk | hk | hk | hk | hk | hk | hk | hk | hk | hk
      · exact ⟨_, _, by simp only [contentOf, hk], configOutputOf_reads hk, by simp [hk]⟩
      · exact ⟨_, _, by simp only [contentOf, hk], setOutputsOf_reads hk, by simp [hk]⟩
      · exact ⟨_, _, by simp only [contentOf, hk], givePagesOf_reads hk, by simp [hk]⟩
      · exact ⟨_, _, by simp only [contentOf, hk], reclaimPagesOf_reads hk, by simp [hk]⟩
      · exact ⟨some (.flushJournal), false, by simp only [contentOf, hk],
          .taken (uncheckedKind_passes (by simp [hk])) hk (by simp [Request.cls]), by simp [hk]⟩
      · exact ⟨_, _, by simp only [contentOf, hk], configPointOf_reads hk, by simp [hk]⟩
      · exact ⟨_, _, by simp only [contentOf, hk], releasePointOf_reads hk, by simp [hk]⟩
      · exact ⟨_, _, by simp only [contentOf, hk], configGroupOf_reads hk, by simp [hk]⟩
      · exact ⟨_, _, by simp only [contentOf, hk], setTimingOf_reads hk, by simp [hk]⟩
      · exact ⟨some (.recalibrate (blockField b 16)), true, by simp only [contentOf, hk],
          .taken (uncheckedKind_passes (by simp [hk])) ⟨hk, rfl⟩ (by simp [Request.cls]), by simp [hk]⟩
      · exact ⟨some (.reseed (blockField b 16)), true, by simp only [contentOf, hk],
          .taken (uncheckedKind_passes (by simp [hk])) ⟨hk, rfl⟩ (by simp [Request.cls]), by simp [hk]⟩
      · exact ⟨_, _, by simp only [contentOf, hk], snapshotOf_reads hk, by simp [hk]⟩
      · exact ⟨some (.mark (blockHalf b 8)), true, by simp only [contentOf, hk],
          .taken (uncheckedKind_passes (by simp [hk])) ⟨hk, rfl⟩ (by simp [Request.cls]), by simp [hk]⟩
      · exact ⟨_, _, by simp only [contentOf, hk], spotOf_reads hk, by simp [hk]⟩
    obtain ⟨o, boundary, ho, ⟨h1, h2⟩, hb⟩ := key
    unfold parse
    rw [ho]
    rcases o with _ | r
    · simp [hn, h1.1 rfl]
    · have hf : ¬ ContentFails b := fun hf => by simpa using h1.2 hf
      obtain ⟨h3, h4⟩ := h2 r rfl
      rw [hb] at h4
      simp [hn, hf, h3, h4]

end Sys2Proof.Machine
end

