-- ==== Sys2Proof/Tests/Slice0.lean ====
section
/-! SUPPORT. Small tests of single commands: the ill-formed terms the well-formedness check refuses, rows of the spec's worked examples, one command of each family on a small state, and for every statement with hypotheses a concrete state and operands that meet them, clause by clause. -/

namespace Sys2Proof.Tests

open Sys2Proof.Machine

/-! ### Small states -/

/-- The state a command leaves. -/
def after (c : Instr) (s : State) : State :=
  match exec c s with
  | .next t => t
  | .fault _ => s
  | .refused _ => s

/-- The state after reset with another operating state and RUN. -/
def inState (op : OpState) (run : Bool) : State := State.reset.setCtl { State.reset.ctl with op := op, run := run }

/-- A running device between frames, its walker resting on the header. -/
def running : State :=
  ((inState .running true).setWk { state := .resting, anchor := .header, pendingLook := false, badLink := false }).setEng
    { ScanEngine.reset with frameTimer := some 20, frameState := .waiting }

/-- A PENDING block with the words from offset 12 on. -/
def block (kind flags : Byte) (tag : Half) (rest : List Word) : Vector Word 16 :=
  Vector.ofFn fun i => (0 :: ofBytes 2 kind flags 0 :: ofHalves tag 0 :: rest).getD i.val 0

/-- The walker holds a block it has read. -/
def held (b : Vector Word 16) : Held := { addr := 0x100100, block := b }

/-- The walker in a state of its own. -/
def walking (w : WalkerState) : State := running.walkTo w

/-- An access of a kind on the interconnect. -/
def serving (k : AccessKind) (addr : Word) (data : List Word) (s : State) : State :=
  s.setPort [{ kind := k, addr := addr, data := data }]

/-- A frame in progress at point 0's slot, the converter granted to it. -/
def scanning (pt : Point) : State :=
  let s := running.setPoint 0 pt
  (s.setEng { s.eng with frameState := .scanning, frameInProgress := 1, slot := some 0 }).setArb
    { grant := .scan ⟨1, ⟨0, 0, 0⟩⟩, scanWaits := false, spotWaits := false }

/-- An IDLE point, seeded, with the settings of 05's example of ten frames. -/
def point12 : Point :=
  { Point.reset with
    cfg := { Settings.reset with threshold := 400, hysteresis := 150, enterDebounce := 2, exitDebounce := 3, slowBeta := 6,
                                 fastBeta := 3 }
    state := .idle, baseline := 256 * 20000 }

/-- A spot on point 0. -/
def spotOn0 : SpotHeld := { addr := 0x100200, point := 0, multiplier := 4, flags := 1, tag := 7 }

/-- A page open with one record. -/
def page1 : OpenPage :=
  { addr := 0x200000, sequence := 1, count := 1, used := 16, firstRecord := 1, firstFrame := 1, grew := false }

/-- A running device with a page open. -/
def paged : State := running.setJrn { Journal.reset with page := some page1, recordSeq := 1, pageSeq := 1 }

/-! ### Well-formedness: a term that each check refuses -/

theorem test_wf_refuses :
    Instr.wf (.softwareReset 3) = false ∧ Instr.wf (.runSet 0) = false ∧ Instr.wf (.runSet 5) = false ∧
    Instr.wf (.runClear 1) = false ∧ Instr.wf (.runClear 4) = false ∧ Instr.wf (.resume 2) = false ∧
    Instr.wf (.resume 5) = false ∧ Instr.wf (.look 1) = false ∧ Instr.wf (.look 6) = false ∧
    Instr.wf (.acceptedControlWrite 2) = false ∧ Instr.wf (.acceptedControlWrite 4) = false := by decide

theorem test_wf_accepts :
    Instr.wf (.softwareReset 4) = true ∧ Instr.wf (.runSet 1) = true ∧ Instr.wf (.runClear 0) = true ∧
    Instr.wf (.resume 1) = true ∧ Instr.wf (.look 3) = true ∧ Instr.wf (.acceptedControlWrite 1) = true := by decide

/-! ### The spec's worked values -/

/-- 05, example of ten frames: frames 100 and 101 (filter), 102 and 103 (debounce), 109 (disengage and filter). -/
theorem test_example_detection :
    (measure 12 point12 GroupView.alone 20128).pt.baseline = 256 * 20002 ∧
    (measure 12 { point12 with baseline := 256 * 20002 } GroupView.alone 19970).pt.baseline = 256 * 19998 ∧
    (measure 12 { point12 with baseline := 256 * 19998 } GroupView.alone 20450).pt.state = .entering ∧
    (measure 12 { point12 with baseline := 256 * 19998, state := .entering, debounce := 1 } GroupView.alone 20520).pt.state =
      .engaged ∧
    (measure 12 { point12 with baseline := 256 * 19998, state := .leaving, debounce := 2, stuck := 5 } GroupView.alone 20050).pt =
      { point12 with baseline := 256 * 19998 + 208, lastCount := 20050, lastRawDelta := 52, lastDelta := 52 } := by decide

/-- 06, R103's table: the compensation. -/
theorem test_example_compensation :
    [(256, 200), (384, 200), (100, 3), (100, -3), (512, -37)].map (fun (x : Nat × Int) =>
      Group.compensation { Group.reset with weight := x.1 } { Point.reset with state := .idle, lastRawDelta := x.2 }) =
      [200, 300, 1, -1, -74] := by decide

/-- 04, example of an OFFSET calibration: frames 41, 42 and 52. -/
theorem test_example_calibration :
    let pt : Point :=
      { Point.reset with cfg := { Settings.reset with calMode := .offset, calTarget := 30000, calBand := 150 }
                         state := .calibrating, calPhase := .offset, calStep := 9, tuning := ⟨6, 20, 300⟩ }
    pt.atGrant.tuning = ⟨6, 20, 512⟩ ∧ (measure 7 pt.atGrant GroupView.alone 30880).pt.tuning.offset = 512 ∧
    ({ pt with calStep := 8, tuning := ⟨6, 20, 512⟩ } : Point).atGrant.tuning.offset = 768 ∧
    (measure 7 { pt with calStep := 8, tuning := ⟨6, 20, 768⟩ } GroupView.alone 28320).pt.tuning.offset = 512 ∧
    (measure 7 { pt with calPhase := .verify, calStep := 0 } GroupView.alone 30012).pt.state = .idle ∧
    ((measure 7 { pt with calPhase := .verify, calStep := 0 } GroupView.alone 30012).record.map (·.delta)) = some 12 := by
  decide

/-- 09, example of a spot: the parameter area of block Q. -/
theorem test_example_spot :
    spotParams ((((SpotSums.zero.add 21400).add 21460).add 21390).add 21450) 4 =
      [BitVec.ofNat 32 5484800, ofHalves 21390 21460, 4] := by decide

/-- 13: the page header and a short record, byte by byte. -/
theorem test_example_formats :
    (pageHeader page1 (some .linger)).take 2 = [0x00010202#32, 16] ∧
    Record.words { kind := .engage, long := false, who := some (12, .engaged), detail := 0, delta := signedField 522,
                   baseline := 0, count := 0, tuning := ⟨0, 0, 0⟩, stuck := 0 } 9 103 = [0x00008C01#32, 522, 9, 103] := by decide

/-! ### One command of each family -/

theorem test_header_read : (after (.headerReadComplete (Vector.ofFn fun i => [0x53503332#32, 1, 0x100100, 50].getD i.val 0))
    (serving .headerRead 0 [] (inState .loading true))).ctl.op = .running := by decide

theorem test_look_issues_link_read :
    (after (.look 3) running).port = [{ kind := .linkRead, addr := 8, data := [] }] := by decide

theorem test_taken_refuses_bad_kind :
    (after .takenWriteComplete (serving .takenWrite 0x100104 [0] (walking (.fetchTaken (held (block 15 0 7 [])))))).port =
      [{ kind := .resultWrite, addr := 0x100108, data := [0x00010007#32, 0] }] := by decide

theorem test_configure_point :
    ((after .configPoint (walking (.awaiting (held (block 6 0 0
      [0, 0x00000103#32, 0x00017530#32, 0, 1, 0x01010000#32])) .passed))).point 3).state = .idle := by decide

/-- 01 Memory faults, 02 Memory faults: a TAKEN or CLOSED write that fails leaves the block's status as memory holds it. -/
theorem test_failed_status_write :
    let closed := serving .closedWrite 0x100104 [0x00000504#32] (walking (.closingStatus (held (block 5 0 0 [])) (Answer.done 0)))
    (after .errorResponse closed).mem = [] ∧ (after (.hardwareReset false) closed).mem = [] ∧
    (after .closedWriteComplete closed).mem ≠ [] := by decide

/-- The content checks at the ends of their ranges: blocks just inside, and blocks just outside. -/
theorem test_content_checks :
    let point := fun (a b : Word) => block 6 0 0 [0, 0x0000101F#32, 0x0FFFEA60#32, 0x03FF1F0F#32, a, b, 0, 0x00010101#32]
    ([block 1 0 0 [0, 0x02020107#32, 0x00000701#32, 0], block 2 0 0 [0, 0x81#32, 0, 0x00000201#32, 0x01000000#32],
      block 3 0 0 [0, 2, 0x1000#32, 0x2000#32], block 4 0 0 (List.replicate 10 0 ++ [8]),
      point 0x0FFE0FFF#32 0x0F0F0F0F#32, block 7 0 0 [0, 31], block 8 0 0 [0, 0x00011F03#32, 0x80000000#32, 512],
      block 8 0 0 [0, 0x0000FF03#32, 0, 512], block 9 0 0 [0, 1000, 10000, 65535, 60000],
      block 12 0 0 [0, 0xFFFFFFE0#32, 1], block 14 0 0 (List.replicate 12 0 ++ [0x0000401F#32])].all fun b =>
        (contentOf b).any (·.isSome)) = true ∧
    ([block 1 0 0 [0, 0x02020108#32, 0, 0], block 1 0 0 [0, 0, 0x00000800#32, 0], block 2 0 0 [0, 0x80#32, 0, 0, 0x02000000#32],
      block 3 0 0 [0, 0], block 3 0 0 [0, 9], block 3 0 0 [0, 1, 0x1800#32], block 3 0 0 [0, 2, 0x1000#32, 0x1000#32],
      block 4 0 0 (List.replicate 10 0 ++ [9]), point 0x0FFF0FFF#32 0x0F0F0F0F#32, point 0x0FFE0FFF#32 0x0F0E0F0F#32,
      point 0x0FFE0FFF#32 0x100F0F0F#32, block 7 0 0 [0, 32], block 8 0 0 [0, 0x00001F03#32, 0x7FFFFFFF#32, 512],
      block 8 0 0 [0, 0x0000FE03#32, 0, 0], block 8 0 0 [0, 0x0000FF03#32, 0, 513], block 9 0 0 [0, 1000, 999, 0, 0],
      block 9 0 0 [0, 1, 1, 0, 60001], block 12 0 0 [0, 0xFFFFFFE0#32, 3], block 12 0 0 [0, 16, 0],
      block 14 0 0 (List.replicate 12 0 ++ [0x0000411F#32])].all fun b => contentOf b == some none) = true := by decide

/-- 08, R135, R146, R147: a CLOSED header's write that fails, and any header's write that a reset abandons, leaves the page's
header as memory holds it. An OPEN header's write that fails leaves a choice of words (R12). -/
theorem test_failed_header_write :
    let header := serving .journalWrite 0x200000 (pageHeader page1 (some .full)) paged
    let opened : Access := { kind := .journalWrite, addr := 0x200000, data := pageHeader page1 none }
    (Access.closesPage opened = false ∧ opened.burstWords = pageHeader page1 none) ∧
    (after (.hardwareReset false) (paged.setPort [opened])).mem = [] ∧
    (after .errorResponse header).mem = [] ∧ (after .responseLimitExpiry header).mem = [] ∧
    (after (.hardwareReset false) header).mem = [] ∧ (after (.softwareReset 4) header).mem = [] ∧
    (after .journalWriteComplete (header.setJrn { header.jrn with
      writes := [{ addr := 0x200000, data := pageHeader page1 (some .full), closes := none }] })).mem ≠ [] := by decide

/-- 10, R166: a report and the entry to FAULTED together. The point is ENGAGED and TRIP raised under either order; the view
and a HOLD line follow only with the report first. -/
theorem test_raced_fault :
    let urgent : Point := { point12 with cfg := { point12.cfg with enterDebounce := 1, urgent := true } }
    let s := serving .closedWrite 0x100104 [1] (scanning urgent)
    let line : Line := { Line.reset with owner := .linked, linkSet := 1, linkStates := ⟨true, false, false⟩ }
    let o : OutputUnit := { lines := OutputUnit.reset.lines.set 3 line, view := OutputUnit.reset.view.set 0 .idle, entryAfter := none }
    let raced := fun n => after (.errorResponse (some { event := .scanConversion 20400 [], taken := n })) (s.setOut o)
    ([0, 1].all fun n => (raced n).ctl.op = .faulted && (raced n).ctl.faultAddr = 0x100104 &&
      ((raced n).point 0).state = .engaged && (raced n).atn.tripIndex = some ⟨0, .engaged⟩ && (raced n).port = [] &&
      (raced n).mem = [] && (raced n).out.entryAfter = none) = true ∧
    ((raced 0).out.view[(0 : PointId)] = .idle ∧ ((raced 0).out.lines[(3 : Fin 8)]).level = false) ∧
    ((raced 1).out.view[(0 : PointId)] = .engaged ∧ ((raced 1).out.lines[(3 : Fin 8)]).level = true) := by decide

/-- 07, R119, R117: expiries inside a frame's end, the pool empty. One after step 1 sets the mark, and with the new rate; one
after step 3 is then merged and counted in the same end; one after step 6 is a skipped frame of its own. -/
theorem test_expiry_in_frame_end :
    let s := scanning point12
    let ends := fun (x : EndExpiries) (s : State) => (after (.scanConversionComplete 20000 [x]) s).eng
    let drowsy := s.setEng { s.eng with timing := { s.eng.timing with drowsyAfter := 1 } }
    let e := ends { EndExpiries.zero with judged := 1, counted := 1 } s
    (e.gap = 2 ∧ e.merged = 0 ∧ e.startPending = false ∧ e.frameNumber = 2) ∧
    (ends { EndExpiries.zero with judged := 1 } drowsy).frameTimer = some 200 ∧
    (ends { EndExpiries.zero with told := 2 } s).gap = 2 ∧
    (ends { EndExpiries.zero with left := 2 } s).gap = 2 ∧ (ends { EndExpiries.zero with left := 2 } s).startPending = false := by decide

/-- 02, R31, and 07, R119: with a page queued an expiry after step 6 of a frame's end begins the next frame. A MARK that has
waited for the frame's end is applied before it, and its record stands in that frame; one that the walker has only passed can
reach the engine behind the expiry, and waits for that frame's end. -/
theorem test_request_at_frame_end :
    let s := (scanning point12).setJrn { Journal.reset with queue := [0x300000] }
    let asked := fun (phase : BoundaryPhase) => after (.scanConversionComplete 20000 [{ EndExpiries.zero with unreached := 1 }])
      (s.walkTo (.awaiting (held (block 13 0 7 [])) phase))
    let early := after .mark (s.walkTo (.awaiting (held (block 13 0 7 [])) .passed))
    early.wk.state = .awaiting (held (block 13 0 7 [])) .waits ∧
    ((asked .waits).eng.frameState = .scanning ∧ (asked .waits).jrn.recordSeq = 1 ∧
      (asked .waits).wk.state = .closingResult (held (block 13 0 7 [])) (Answer.done 0)) ∧
    ((asked .passed).eng.frameState = .scanning ∧ (asked .passed).jrn.recordSeq = 0 ∧
      (asked .passed).wk.state = .awaiting (held (block 13 0 7 [])) .waits) := by decide

/-- 02, R31: a MARK passed between frames, the expiry taken first: it waits for the end of that frame, and is applied before an
expiry after step 6 begins another. -/
theorem test_request_waits_one_frame :
    let h := held (block 13 0 7 [])
    let s := ((running.setPoint 0 point12).setJrn { Journal.reset with queue := [0x300000] }).walkTo (.awaiting h .passed)
    let t := after .frameTimerExpiry s
    let u := after (.scanConversionComplete 20000 [{ EndExpiries.zero with unreached := 1 }]) t
    (t.eng.frameState = .scanning ∧ t.wk.state = .awaiting h .waits) ∧
    (u.eng.frameState = .scanning ∧ u.eng.frameInProgress = 2 ∧ u.jrn.recordSeq = 1 ∧
      u.wk.state = .closingResult h (Answer.done 0)) := by decide

/-- 07, R117: an expiry after step 6 with a start pending begins frame 3 after frame 1, and its GAP record carries the one
expiry between them. -/
theorem test_gap_counts_pending_start :
    let s := ((scanning point12).setEng { (scanning point12).eng with frameNumber := 1 }).setJrn
      { Journal.reset with queue := [0x300000] }
    let t := after (.scanConversionComplete 20000 [{ EndExpiries.zero with judged := 1, left := 1 }]) s
    s.GapCounts ∧ t.GapCounts ∧ t.eng.frameInProgress = 3 ∧ t.eng.startPending = false ∧ t.eng.gap = 0 ∧
    (t.jrn.writes.map (·.data))[1]? = some [ofHalves 0xFF08 0, 1, 1, 3] := by
  unfold State.GapCounts
  decide

/-- 05, R84: an urgent point raises TRIP when it becomes ENGAGED, and not when it returns from LEAVING. -/
theorem test_urgent_trips :
    let pt : Point := { point12 with cfg := { point12.cfg with enterDebounce := 1, urgent := true } }
    (measure 0 pt GroupView.alone 20400).trip = some .engaged ∧
    (measure 0 { pt with state := .leaving, debounce := 1 } GroupView.alone 20400).trip = none ∧
    (measure 0 point12 GroupView.alone 20400).trip = none := by decide

/-- 13, STATUS: a FAULTED device with every flag set, and a running one whose walker rests. -/
theorem test_status_reads :
    let s := running.setCtl { running.ctl with op := .faulted, refusedWrite := true, faultKind := .memTimeout }
    let t := ((s.setWk { s.wk with state := .idle, badLink := true }).setJrn { s.jrn with starved := true }).setEng
      { s.eng with rate := .drowsy }
    t.readRegister 0x08 = some 0x2F05#32 ∧ running.readRegister 0x08 = some 0x12#32 ∧ running.readRegister 0x04 = some 1#32 ∧
    State.reset.readRegister 0x04 = some 0#32 := by decide

theorem test_error_response :
    (after .errorResponse (serving .mirrorWrite 0x100020 [] running)).ctl.faultAddr = 0x100020 := by decide

theorem test_timer_starves :
    (after .frameTimerExpiry running).eng.gap = 1 ∧ (after .frameTimerExpiry running).atn.journal.pending = true := by decide

theorem test_line_pin :
    let s := after .configOutput (walking (.workingUnit (held (block 1 0 0 [0, 0x00010002#32, 1, 0]))))
    s.outPin 2 = .high ∧ s.outPin 0 = .highZ ∧ s.port.map (·.data) = [[0, 4]] := by decide

/-! ### Every statement's hypotheses are met: one theorem a statement, one state a clause, named after the statement -/

/-- The hypotheses of a CONTROL write without RESET, taken in `s`. -/
def writes (c : Instr) (data : Word) (s : State) : Bool :=
  controlData c = some data && !s.ctl.resetHeld && !Control.reset data

theorem test_meets_StepTakesFrontCommand : State.reset.pending = [] := rfl

theorem test_meets_EveryCommandCompletes : Instr.runSet 1 ≠ .attentionRead := by decide

/-- The units at reset; no access, a CLOSED write of one word, and a page header's write. -/
theorem test_meets_HardwareResetClears :
    State.reset.UnitsAtReset ∧ State.reset.port = [] ∧
    Access.LeavesMemory { kind := .closedWrite, addr := 68, data := [1] } ∧
    Access.LeavesMemory { kind := .journalWrite, addr := 0x200000, data := pageHeader page1 none } :=
  ⟨⟨rfl, rfl, rfl, rfl, rfl, rfl, rfl⟩, rfl, .inl (by decide), .inr (by decide)⟩

/-- No access, and a CLOSED write of one word. -/
theorem test_meets_SoftwareResetKeeps :
    let s := serving .closedWrite 68 [1] running
    controlData (.softwareReset 4) = some 4 ∧ s.ctl.resetHeld = false ∧ Control.reset 4 = true ∧ running.port = [] ∧
    ∀ a ∈ s.port, a.LeavesMemory :=
  ⟨by decide, by decide, by decide, by decide, fun a h => .inl (by
    have : a = { kind := .closedWrite, addr := 68, data := [1] } := by simpa [serving] using h
    subst this
    decide)⟩

theorem test_meets_IgnoredRegisterWrites :
    (after (.hardwareReset true) running).ctl.resetHeld = true ∧ controlData (.runSet 1) = some 1 := by decide

theorem test_meets_ControlWriteTaken :
    (writes (.runSet 1) 1 (inState .off false) ∧ Control.run 1 ≠ (inState .off false).ctl.run) ∧
    (writes (.runClear 0) 0 running ∧ Control.run 0 ≠ running.ctl.run ∧ running.ctl.op = .running) ∧
    (writes (.resume 1) 1 (inState .stopped false) ∧ Control.run 1 ≠ (inState .stopped false).ctl.run) ∧
    (writes (.runClear 0) 0 (inState .loading true) ∧ Control.run 0 ≠ (inState .loading true).ctl.run) ∧
    (writes (.runSet 1) 1 (inState .stopping false) ∧ Control.run 1 ≠ (inState .stopping false).ctl.run) ∧
    (writes (.runSet 1) 1 (inState .faulted false) ∧ Control.run 1 ≠ (inState .faulted false).ctl.run) ∧
    (writes (.acceptedControlWrite 1) 1 running ∧ Control.run 1 = running.ctl.run ∧ Control.look 1 = false) ∧
    (writes (.look 2) 2 (inState .off false) ∧ Control.run 2 = false ∧ (inState .off false).ctl.op ≠ .running) := by decide

theorem test_meets_LookIsHeard :
    writes (.look 3) 3 running ∧ Control.run 3 = running.ctl.run ∧ Control.look 3 = true ∧ running.ctl.op = .running ∧
    running.wk.state = .resting ∧ (walking .fetchLink).ctl = running.ctl ∧ (walking .fetchLink).wk.state ≠ .resting ∧
    (walking .fetchLink).wk.state ≠ .idle := by decide

theorem test_meets_RunSetStarts :
    (writes (.runSet 1) 1 (inState .off false) ∧ Control.run 1 = true ∧ (inState .off false).ctl.run = false) ∧
    (writes (.resume 1) 1 (inState .stopped false) ∧ (inState .stopped false).ctl.run = false) := by decide

/-- The engine WAITING, and SCANNING with its conversion granted and not; the walker RESTING, with a SPOT in WORKING given
to the spot unit and not yet, and reading; the held spot in every state; a boundary request that waits for the frame. -/
theorem test_meets_StopOrderGiven :
    let s := scanning point12
    let b := block 14 1 7 (List.replicate 12 0 ++ [0x00004000#32])
    let c := block 13 0 7 []
    let cut := (s.setArb { State.reset.arb with scanWaits := true }).walkTo (.awaiting (held c) .passed)
    (writes (.runClear 0) 0 running ∧ Control.run 0 = false ∧ running.ctl.run = true ∧ running.ctl.op = .running ∧
      running.eng.frameState = .waiting ∧ running.wk.state = .resting) ∧
    (writes (.runClear 0) 0 s ∧ s.ctl.run = true ∧ s.ctl.op = .running ∧ s.eng.frameState = .scanning ∧
      s.arb.grant = .scan ⟨1, ⟨0, 0, 0⟩⟩) ∧
    (cut.arb.grant = .free ∧ cut.eng.frameState = .scanning ∧ cut.ctl.op = .running) ∧ cut.Awaits (held c) (.mark 7) ∧
    (walking (.workingSpot (held b))).wk.state = .workingSpot (held b) ∧
    (walking (.workingUnit (held b))).Working (held b) (.spot 0 64) ∧ (walking .fetchLink).wk.state ≠ .resting ∧
    ([SpotState.empty, .queued spotOn0, .converting spotOn0 SpotSums.zero none,
      .converting spotOn0 SpotSums.zero (some .superseded), .closing spotOn0 .done].all fun st =>
        (s.setSpt { State.reset.spt with state := st }).spt.state = st) = true :=
  ⟨by decide, by decide, by decide, ⟨.inl rfl, parse_eq_ok.2 (by decide), rfl⟩, rfl, ⟨rfl, parse_eq_ok.2 (by decide)⟩, by decide,
    by decide⟩

theorem test_meets_AreaBaseWriteStores :
    (inState .off false).ctl.resetHeld = false ∧ (inState .off false).ctl.op = .off ∧ running.ctl.op ≠ .off := by decide

theorem test_meets_AttnEnableAndLine :
    running.ctl.resetHeld = false ∧ (Attention.reset.cls .trip).inService = false := by decide

/-- The lowest class eligible behind three that are not, and none eligible. -/
theorem test_meets_AttentionReadAcknowledges :
    let a : Attention := { Attention.reset with chain := { pending := true, causes := 4, inService := false, enabled := true } }
    a.eligible .chain = true ∧ (∀ k ∈ AttnClass.all, k.code.toNat < AttnClass.chain.code.toNat → a.eligible k = false) ∧
    ∀ k ∈ AttnClass.all, Attention.reset.eligible k = false := by decide

/-- A class in service under none higher, none in service, and an eligible class that a read would acknowledge. -/
theorem test_meets_ServiceEndsHighest :
    let a : Attention :=
      { Attention.reset with
        trip := { pending := true, causes := 1, inService := false, enabled := true }
        chain := { pending := false, causes := 0, inService := true, enabled := true } }
    let s := running.setAtn a
    s.ctl.resetHeld = false ∧ (a.cls .chain).inService = true ∧ (a.cls .journal).inService = false ∧ a.eligible .trip = true ∧
    a.eligible .fault = false ∧ ((after .attentionRead s).atn.cls .trip).inService = true ∧
    ∀ k ∈ AttnClass.all, (Attention.reset.cls k).inService = false := by decide

/-- Each value of TRIP's index, and a read that acknowledges TRIP. -/
theorem test_meets_TripIndexRule :
    let a : Attention := { Attention.reset with trip := { pending := true, causes := 2, inService := false, enabled := true }
                                                tripIndex := some ⟨31, .pointFault⟩ }
    Attention.reset.tripIndex = none ∧ a.tripIndex = some ⟨31, .pointFault⟩ ∧ a.highest = some .trip ∧
    (a.raise (.engaged 0)).tripIndex = some ⟨0, .engaged⟩ ∧ Cause.cls .notify ≠ .trip ∧ running.ctl.resetHeld = false ∧
    Control.reset 4 = true := by decide

/-- No access in flight, an access of one word, a CLOSED header, and a burst; alone, and together with each event of the scan engine that has
an effect: no report taken, and one. -/
theorem test_meets_MemoryFaultStopsAll :
    State.reset.port = [] ∧ (serving .takenWrite 68 [1] running).port = { kind := .takenWrite, addr := 68, data := [1] } :: [] ∧
    Access.FaultLeavesMemory { kind := .takenWrite, addr := 68, data := [1] } ∧
    Access.FaultLeavesMemory { kind := .journalWrite, addr := 0x200000, data := pageHeader page1 (some .full) } ∧
    (serving .mirrorWrite 32 [1, 2] running).port = { kind := .mirrorWrite, addr := 32, data := [1, 2] } :: [] ∧
    ((scanning point12).arb.grant = .scan ⟨1, ⟨0, 0, 0⟩⟩ ∧ running.eng.frameTimer = some 20 ∧ running.betweenFrames = true ∧
      (scanning point12).betweenFrames = false ∧ running.ctl.op = .running ∧ (inState .loading true).ctl.op ≠ .running) ∧
    (⟨.boundary, 0⟩ : FaultRace).taken = 0 ∧ (⟨.stopOrder, 1⟩ : FaultRace).taken ≠ 0 :=
  ⟨by decide, by decide, .inl (by decide), .inr ⟨rfl, by decide, _, _, rfl, by decide⟩, by decide, by decide, by decide⟩

/-- A coherent state that faults, FAULTED kept, FAULTED left, and a state that never was FAULTED. -/
theorem test_meets_FaultAddrRule :
    let s := after (.runSet 1) State.reset
    let f := after .errorResponse s
    s.ctl.Coherent ∧ s.ModeCoherent ∧ s.ctl.op ≠ .faulted ∧ f.ctl.op = .faulted ∧ f.ctl.Coherent ∧ f.ModeCoherent ∧
    (after .lateResponse f).ctl.op = .faulted ∧ (after (.softwareReset 4) f).ctl.op ≠ .faulted := by
  unfold ControlUnit.Coherent
  exact ⟨by decide, ⟨⟨rfl, rfl, rfl, rfl, rfl, rfl, rfl⟩, rfl⟩, by decide, rfl, by decide,
    ⟨rfl, rfl, rfl, ⟨rfl, rfl, rfl⟩, rfl, rfl, rfl, rfl, rfl, rfl⟩, rfl, by decide⟩

theorem test_meets_StrayResponsesChangeNothing :
    (completedWrite .takenWriteComplete = some .takenWrite ∧ State.reset.serving .takenWrite = false) ∧
    (completedRead (.linkReadComplete 0) = some .linkRead ∧ State.reset.serving .linkRead = false) := by decide

/-- A command that ends no access, an empty port, addresses just below and at the end of a burst, and one completed
write of each agent. -/
theorem test_meets_MemoryChangesOnlyByAccess :
    endsAccess .attentionRead = false ∧ State.reset.port = [] ∧ 31 < (32#32).toNat ∧ (32#32).toNat + 4 * 8 ≤ 64 ∧
    State.PortOk (serving .takenWrite 0x100104 [takenWord (block 5 0 0 [])] (walking (.fetchTaken (held (block 5 0 0 []))))) ∧
    State.PortOk (serving .journalWrite 0x200000 [1] (running.setJrn { Journal.reset with
      writes := [{ addr := 0x200000, data := [1], closes := none }] })) ∧
    State.PortOk (serving .snapshotWrite 0x300000 [1] (running.setSpt { State.reset.spt with
      writes := [{ kind := .snapshotRecord, addr := 0x300000, data := [1] }], snapshot := some ⟨1, 1⟩ })) ∧
    State.PortOk (serving .spotWrite 0x300000 [1] (running.setSpt { State.reset.spt with
      state := .closing spotOn0 .done, writes := [{ kind := .closed, addr := 0x300000, data := [1] }] })) ∧
    State.PortOk (serving .mirrorWrite 32 [1, 0, 0, 0, 0, 0, 0, 0] (running.setMir
      { writing := some ⟨{ frameNumber := 1, lastRecord := 0, openPage := 0, anchor := 0, gap := 0, pagesQueued := 0,
                           rate := .brisk, starved := false }, false⟩, waiting := none, during := .between })) := by
  unfold State.PortOk
  decide

/-- A LOADING device that reads its header, brisk values at both ends of the range and just beyond, and a bad header. -/
theorem test_meets_HeaderReadDecides :
    (serving .headerRead 0 [] (inState .loading true)).ctl.op = .loading ∧
    (serving .headerRead 0 [] (inState .loading true)).port = { kind := .headerRead, addr := 0, data := [] } :: [] ∧
    (1 ≤ 1 ∧ 1000 ≤ 1000 ∧ ¬ 1 ≤ 0 ∧ ¬ 1001 ≤ 1000) ∧ (Vector.replicate 8 0#32)[0] ≠ 0x53503332#32 ∧
    (Vector.replicate 8 0#32)[1] ≠ 1#32 := by decide

/-- Links of 0, not a multiple of 64, and good, with and without a pending look and in STOPPING; blocks PENDING and not. -/
theorem test_meets_WalkerReadsDecide :
    let s := serving .linkRead 8 [] (walking .fetchLink)
    let b := serving .blockRead 64 [] (walking (.fetchBlock 64))
    let stopping := fun (x : State) => x.setCtl { x.ctl with op := .stopping, run := false }
    s.wk.state = .fetchLink ∧ s.port = { kind := .linkRead, addr := 8, data := [] } :: [] ∧ s.ctl.op ≠ .stopping ∧
    (stopping s).ctl.op = .stopping ∧ (stopping s).wk.state = .fetchLink ∧ s.wk.pendingLook = false ∧
    (s.setWk { s.wk with pendingLook := true }).wk.state = .fetchLink ∧ (63#32).toNat % 64 ≠ 0 ∧ (64#32).toNat % 64 = 0 ∧
    (64#32) ≠ 0 ∧ b.wk.state = .fetchBlock 64 ∧ b.port = { kind := .blockRead, addr := 64, data := [] } :: [] ∧
    b.ctl.op ≠ .stopping ∧ (stopping b).ctl.op = .stopping ∧ blockByte (block 5 0 0 []) 4 = 2 ∧
    blockByte (Vector.replicate 16 0) 4 ≠ 2 ∧ b.wk.pendingLook = false := by decide

/-- A block of kind 0 and one of kind 15, a block that fails its content check, one for a unit, one for a frame boundary, and the two closing writes. -/
theorem test_meets_WalkerWritesGoOn :
    let h := held (block 5 1 0 [])
    parse (block 15 0 7 []) = .error .badKind ∧ (blockByte (block 0 0 7 []) 5).toNat = 0 ∧
    (blockByte (block 15 0 7 []) 5).toNat = 15 ∧ ContentFails (block 7 0 0 [0, 32]) ∧ parse (block 5 0 0 []) = .ok .flushJournal ∧
    parse (block 13 0 7 []) = .ok (.mark 7) ∧ Request.cls (.mark 7) = .boundary ∧
    (serving .takenWrite 68 [0] (walking (.fetchTaken h))).wk.state = .fetchTaken h ∧
    (serving .resultWrite 72 [0] (walking (.closingResult h (Answer.done 0)))).wk.state = .closingResult h (Answer.done 0) ∧
    (serving .closedWrite 68 [0] (walking (.closingStatus h (Answer.done 0)))).wk.state = .closingStatus h (Answer.done 0) ∧
    (inState .stopping false).ctl.op = .stopping ∧ running.ctl.op ≠ .stopping :=
  ⟨parse_eq_badKind (by decide), by decide, by decide, show 31 < 32 by decide, parse_eq_ok.2 (by decide),
    parse_eq_ok.2 (by decide), rfl, rfl, rfl, rfl, rfl, by decide⟩

/-- Both owners for CONFIG_OUTPUT; a set of line 7 that is DIRECT, and one that is LINKED. -/
theorem test_meets_OutputRequestsApplied :
    (walking (.workingUnit (held (block 1 0 0 [0, 0x00010107#32, 1, 0])))).Working (held (block 1 0 0 [0, 0x00010107#32, 1, 0]))
      (.configOutput 7 { Line.reset with owner := .linked, drive := .pushPullHigh, level := true }) ∧
    (walking (.workingUnit (held (block 2 0 0 [0, 128])))).Working (held (block 2 0 0 [0, 128]))
      (.setOutputs 128 (Vector.replicate 8 false)) ∧
    (∀ m : Fin 8, BitVec.getLsbD 128#8 m.val = true → (running.out.lines[m]).owner = .direct) ∧
    (BitVec.getLsbD 128#8 7 = true ∧
      (((running.setOut { running.out with lines := Vector.replicate 8 { Line.reset with owner := .linked } }).out.lines)[7]).owner =
        .linked) :=
  ⟨⟨rfl, parse_eq_ok.2 (by decide)⟩, ⟨rfl, parse_eq_ok.2 (by decide)⟩, by decide, by decide⟩

/-- A pool that the page would take past 16, one at 15, one that holds the page, and a reclaim of 8. -/
theorem test_meets_PageRequestsApplied :
    (walking (.workingUnit (held (block 3 0 0 [0, 1, 0x200000#32])))).Working (held (block 3 0 0 [0, 1, 0x200000#32]))
      (.givePages [0x200000]) ∧ 16 < (List.replicate 16 0#32).length + [0x200000#32].length ∧
    (List.replicate 15 0#32).length + [0x200000#32].length ≤ 16 ∧ 0x200000#32 ∉ List.replicate 15 0#32 ∧
    paged.jrn.page = some page1 ∧ page1.addr = 0x200000 ∧
    (walking (.workingUnit (held (block 4 0 0 (List.replicate 10 0 ++ [8]))))).Working
      (held (block 4 0 0 (List.replicate 10 0 ++ [8]))) (.reclaimPages 8) :=
  ⟨⟨rfl, parse_eq_ok.2 (by decide)⟩, by decide, by decide, by decide, rfl, rfl, rfl, parse_eq_ok.2 (by decide)⟩

/-- A frame open, none open with a page of records, and with none. -/
theorem test_meets_FlushJournalApplied :
    let s := paged.walkTo (.workingUnit (held (block 5 0 0 [])))
    s.Working (held (block 5 0 0 [])) .flushJournal ∧ s.jrn.frameOpen = false ∧ s.jrn.page = some page1 ∧ page1.count ≠ 0 ∧
    (s.setJrn Journal.reset).jrn.page = none ∧ (s.setJrn { s.jrn with frameOpen := true }).jrn.frameOpen = true :=
  ⟨⟨rfl, parse_eq_ok.2 (by decide)⟩, by decide⟩

theorem test_meets_BoundaryRequestsWait :
    (scanning point12).eng.frameState = .scanning ∧
    Instr.mark ∈ [Instr.configPoint, .releasePoint, .configGroup, .setTiming, .recalibrate, .reseed, .snapshot, .mark] ∧
    (scanning point12).waitingBoundary = none ∧
    ((scanning point12).walkTo (.awaiting (held (block 13 0 7 [])) .passed)).Awaits (held (block 13 0 7 [])) (.mark 7) ∧
    ((scanning point12).walkTo (.awaiting (held (block 13 0 7 [])) .waits)).Awaits (held (block 13 0 7 [])) (.mark 7) ∧
    (Request.mark 7).boundaryCommand = some .mark :=
  ⟨by decide, by decide, by decide, ⟨.inl rfl, parse_eq_ok.2 (by decide), rfl⟩, ⟨.inr rfl, parse_eq_ok.2 (by decide), rfl⟩, rfl⟩

/-- The walker awaits a frame boundary with a block. -/
def awaiting (b : Vector Word 16) : State := walking (.awaiting (held b) .passed)

/-- A point that leaves DISABLED, a point that stays IDLE, and one with a spot on it. -/
theorem test_meets_ConfigPointApplied :
    let b := block 6 0 0 [0, 0x00000103#32, 0x00017530#32, 0, 1, 0x01010000#32]
    let idle := (awaiting b).setPoint 3 point12
    (awaiting b).betweenFrames = true ∧ (awaiting b).Awaits (held b) (.configPoint 3 { Settings.reset with calTarget := 30000 }) ∧
    ((awaiting b).point 3).spotBusy = false ∧ (awaiting b).out.view[(3 : PointId)] = ((awaiting b).point 3).state ∧
    ((after .configPoint (awaiting b)).point 3).state ≠ ((awaiting b).point 3).state ∧
    ((after .configPoint idle).point 3).state = (idle.point 3).state ∧
    ((idle.setPoint 3 { point12 with spotBusy := true }).point 3).spotBusy = true :=
  ⟨rfl, ⟨.inl rfl, parse_eq_ok.2 (by decide), rfl⟩, by decide⟩

/-- The last point, the reference of its group, DISABLED and ENGAGED with a line that follows it. -/
theorem test_meets_ReleasePointApplied :
    let b := block 7 0 0 [0, 31]
    let line : Line := { Line.reset with owner := .linked, linkSet := 0x80000000#32, linkStates := ⟨true, false, false⟩, level := true }
    let engaged := ((awaiting b).setPoint 31 { point12 with state := .engaged }).setOut
      { OutputUnit.reset with lines := OutputUnit.reset.lines.set 0 line, view := OutputUnit.reset.view.set 31 .engaged }
    let g : Group := { members := 0x80000001#32, reference := some 31, weight := 512, halt := true }
    (awaiting b).betweenFrames = true ∧ (awaiting b).Awaits (held b) (.releasePoint 31) ∧ inSet g.members 31 = true ∧
    g.reference = some 31 ∧ ((awaiting b).point 31).spotBusy = false ∧ ((awaiting b).point 31).state = .disabled ∧
    engaged.out.view[(31 : PointId)] = (engaged.point 31).state ∧ engaged.out.entryAfter = none ∧
    ((after .releasePoint engaged).out.lines[(0 : Fin 8)]).level = false :=
  ⟨rfl, ⟨.inl rfl, parse_eq_ok.2 (by decide), rfl⟩, by decide⟩

/-- The held spot in every state, under the stop order and under a RELEASE_POINT of its point. -/
theorem test_meets_OrdersEndSpot :
    let b := block 7 0 0 [0, 0]
    let busy := (running.setPoint 0 { point12 with spotBusy := true }).walkTo (.awaiting (held b) .passed)
    writes (.runClear 0) 0 running ∧ running.ctl.op = .running ∧ running.eng.frameState = .waiting ∧
    busy.betweenFrames = true ∧ busy.Awaits (held b) (.releasePoint 0) ∧ (busy.point 0).spotBusy = true ∧
    ([SpotState.empty, .queued spotOn0, .converting spotOn0 SpotSums.zero none,
      .converting spotOn0 SpotSums.zero (some .superseded), .closing spotOn0 .done].all fun st =>
        (busy.setSpt { State.reset.spt with state := st }).spt.state = st) = true :=
  ⟨by decide, by decide, by decide, by decide, ⟨.inl rfl, parse_eq_ok.2 (by decide), rfl⟩, by decide, by decide⟩

/-- The largest weight; a member that another group has, and one that none has. -/
theorem test_meets_ConfigGroupApplied :
    let b := block 8 0 0 [0, 0xFF03#32, 3, 512]
    let g : Group := { members := 3, reference := none, weight := 512, halt := false }
    let taken : Vector Group 4 := Vector.ofFn fun i => if i = 1 then { Group.reset with members := 1 } else Group.reset
    (awaiting b).betweenFrames = true ∧ (awaiting b).Awaits (held b) (.configGroup 3 g) ∧
    ((1 : Fin 4) ≠ 3 ∧ inSet taken[(1 : Fin 4)].members 0 = true ∧ inSet g.members 0 = true) ∧
    ∀ (j : Fin 4) (p : PointId), j ≠ 3 → inSet (awaiting b).eng.groups[j].members p = true → inSet g.members p = false :=
  ⟨rfl, ⟨.inl rfl, parse_eq_ok.2 (by decide), rfl⟩, by decide, by decide⟩

theorem test_meets_ArmRequestsApplied :
    let b := block 10 0 0 [0, 0x80000001#32]
    let c := block 11 0 0 [0, 0x80000001#32]
    (awaiting b).betweenFrames = true ∧ (awaiting b).Awaits (held b) (.recalibrate 0x80000001#32) ∧
    (awaiting c).Awaits (held c) (.reseed 0x80000001#32) :=
  ⟨rfl, ⟨.inl rfl, parse_eq_ok.2 (by decide), rfl⟩, .inl rfl, parse_eq_ok.2 (by decide), rfl⟩

/-- The first and the last point, and the empty set. -/
theorem test_meets_SnapshotApplied :
    let b := block 12 0 0 [0, 0x300000#32, 0x80000001#32]
    let c := block 12 0 0 [0, 0x300000#32, 0]
    (awaiting b).betweenFrames = true ∧ (awaiting b).Awaits (held b) (.snapshot 0x300000#32 0x80000001#32) ∧
    (List.finRange 32).filter (fun p => inSet 0x80000001#32 p) ≠ [] ∧ (awaiting c).Awaits (held c) (.snapshot 0x300000#32 0) ∧
    (List.finRange 32).filter (fun p => inSet 0 p) = [] :=
  ⟨rfl, ⟨.inl rfl, parse_eq_ok.2 (by decide), rfl⟩, by decide, ⟨.inl rfl, parse_eq_ok.2 (by decide), rfl⟩, by decide⟩

/-- Every timing setting at its greatest value; a mark slot empty and full. -/
theorem test_meets_TimingAndMarkApplied :
    let b := block 9 0 0 [0, 1000, 10000, 65535, 60000]
    let c := block 13 0 7 []
    let full := (awaiting c).setEng { (awaiting c).eng with mark := some ⟨7, 64⟩ }
    (awaiting b).betweenFrames = true ∧ (awaiting b).Awaits (held b) (.setTiming ⟨1000, 10000, 65535, 60000⟩) ∧
    (awaiting c).Awaits (held c) (.mark 7) ∧ (awaiting c).eng.mark = none ∧ full.Awaits (held c) (.mark 7) ∧
    full.eng.mark = some ⟨7, 64⟩ :=
  ⟨rfl, ⟨.inl rfl, parse_eq_ok.2 (by decide), rfl⟩, ⟨.inl rfl, parse_eq_ok.2 (by decide), rfl⟩, rfl,
    ⟨.inl rfl, parse_eq_ok.2 (by decide), rfl⟩, rfl⟩

/-- STOPPING; a point DISABLED, CALIBRATING and IDLE; the spot unit empty and in every other state; the converter free and
not. -/
theorem test_meets_SpotHandedOver :
    let b := block 14 1 7 (List.replicate 12 0 ++ [0x00004000#32])
    let s := walking (.workingUnit (held b))
    let idle := s.setPoint 0 point12
    s.Working (held b) (.spot 0 64) ∧ (s.setCtl { s.ctl with op := .stopping }).ctl.op = .stopping ∧ s.ctl.op ≠ .stopping ∧
    (s.point 0).state = .disabled ∧ ((s.setPoint 0 point12.startCalibration).point 0).state = .calibrating ∧
    (idle.point 0).state = .idle ∧ idle.spt.state = .empty ∧ idle.arb.grant = .free ∧
    (idle.setArb (scanning point12).arb).arb.grant ≠ .free ∧
    ([SpotState.queued spotOn0, .converting spotOn0 SpotSums.zero none, .converting spotOn0 SpotSums.zero (some .aborted),
      .closing spotOn0 .done].all fun st => (idle.setSpt { idle.spt with state := st }).spt.state ≠ .empty) = true :=
  ⟨⟨rfl, parse_eq_ok.2 (by decide)⟩, by decide⟩

/-- A stopped timer, a frame in progress, an empty pool, a page one byte too full; an image on the interconnect, and one
whose access waits behind another. -/
theorem test_meets_ExpiryWithoutFrame :
    let image (s : State) : State := (s.setMir { s.mir with writing := some ⟨s.imageNow, false⟩ }).setPort
      (s.port ++ [{ kind := .mirrorWrite, addr := 32, data := s.imageNow.words }])
    let behind := image (serving .linkRead 8 [] (walking .fetchLink))
    State.reset.eng.frameTimer = none ∧ ((scanning point12).eng.frameTimer = some 20 ∧ (scanning point12).eng.frameState = .scanning) ∧
    (running.eng.frameTimer = some 20 ∧ running.eng.frameState = .waiting ∧ running.jrn.queue = [] ∧ running.jrn.page = none) ∧
    running.eng.reservation = 16 ∧ 4064 < 4049 + running.eng.reservation ∧
    (after .frameTimerExpiry running).mir.writing.isSome = true ∧
    (after .frameTimerExpiry (image running)).mir.waiting.isSome = true ∧
    (after .frameTimerExpiry (image running)).mir.writing = (image running).mir.writing ∧
    (after .frameTimerExpiry behind).mir = { running.mir with writing := some ⟨(after .frameTimerExpiry behind).imageNow, false⟩ } ∧
    (after .frameTimerExpiry behind).port = [{ kind := .linkRead, addr := 8, data := [] },
      { kind := .mirrorWrite, addr := 32, data := (after .frameTimerExpiry behind).imageNow.words }] ∧
    behind.mir.writing ≠ (after .frameTimerExpiry behind).mir.writing := by decide

/-- A page with just enough room, a page one byte short of it before a page in the queue, and a queued page alone; no
point and one point that converts; a gap count and an armed mark; the converter idle and granted. -/
theorem test_meets_ExpiryBeginsFrame :
    let s := paged.setPoint 31 point12
    let short : State := paged.setJrn { paged.jrn with page := some { page1 with used := 4049 }, queue := [0x300000] }
    let both : State := (running.setJrn { Journal.reset with queue := [0x300000], linger := 9 }).setEng
      { running.eng with gap := 3, mark := some ⟨7, 0x100100⟩ }
    (paged.eng.frameTimer = some 20 ∧ paged.eng.frameState = .waiting ∧ paged.eng.startPending = false ∧ paged.eng.merged = 0) ∧
    paged.HasRoom ∧ page1.used + paged.eng.reservation ≤ 4064 ∧ 4048 + running.eng.reservation ≤ 4064 ∧
    short.HasRoom ∧ 4064 < 4049 + short.eng.reservation ∧ both.HasRoom ∧ both.jrn.page = none ∧
    (∀ p : PointId, (paged.point p).slotConverts = false) ∧ (s.point 31).slotConverts = true ∧
    (∀ r : PointId, r < 31 → (s.point r).slotConverts = false) ∧ s.arb.Idle ∧ (s.setArb (scanning point12).arb).arb.grant ≠ .free ∧
    ((after .frameTimerExpiry both).jrn.writes.map (·.addr)) = [0x300000, 0x300020, 0x300030, 0x300000] := by
  unfold Arbiter.Idle
  exact ⟨by decide, .inr ⟨_, rfl, by decide⟩, by decide, by decide, .inl (by decide), by decide, .inl (by decide), rfl,
    by decide, by decide, by decide, by decide, by decide, by decide⟩

theorem test_meets_LingerExpiryActs :
    let s := paged.setJrn { paged.jrn with lingerTimer := some 5 }
    running.jrn.lingerTimer = none ∧ (s.jrn.lingerTimer = some 5 ∧ s.jrn.frameOpen = false ∧ s.jrn.page = some page1 ∧
      s.jrn.writes = []) ∧ (s.setJrn { s.jrn with frameOpen := true }).jrn.frameOpen = true ∧
    (s.setJrn { s.jrn with writes := [{ addr := 0, data := [], closes := none }] }).jrn.writes ≠ [] := by decide

/-- A LINKED line in each drive that follows point 0 and not point 31, wanted and not, and a DIRECT line; no entry to FAULTED,
one before the report, and one behind it. -/
theorem test_meets_PinsShowLines :
    let l : Line := { Line.reset with owner := .linked, linkSet := 1, linkStates := ⟨true, false, false⟩ }
    ([Drive.off, .pushPullHigh, .openDrainLow].all fun d => ({ l with drive := d } : Line).owner = .linked) = true ∧
    inSet l.linkSet 0 = true ∧ inSet l.linkSet 31 = false ∧ Line.reset.owner = .direct ∧
    l.wanted (OutputUnit.reset.view.set 0 .engaged) = true ∧ l.wanted OutputUnit.reset.view = false ∧
    running.ctl.resetHeld = false ∧ Control.reset 4 = true ∧ OutputUnit.reset.entryAfter = none ∧
    ({ OutputUnit.reset with entryAfter := some 0 } : OutputUnit).entryAfter = some 0 ∧
    (OutputUnit.report { OutputUnit.reset with entryAfter := some 1 } 0 .idle).entryAfter = some 0 := by
  decide

/-- The engage level met and missed by one, with enter debounce 1 and 2. -/
theorem test_meets_IdlePointMoves :
    point12.state = .idle ∧ isSaturated 20400 = false ∧ point12.armedReseed = false ∧ point12.seedPending = false ∧
    GroupView.alone.vetoed = false ∧ rawDelta .rising 20400 point12.baseline - GroupView.alone.compensation = 400 ∧
    (point12.cfg.threshold : Int) ≤ 400 ∧ 2 ≤ point12.cfg.enterDebounce ∧
    rawDelta .rising 20399 point12.baseline - GroupView.alone.compensation = 399 ∧ (399 : Int) < point12.cfg.threshold ∧
    ({ point12.cfg with enterDebounce := 1 } : Settings).enterDebounce ≤ 1 := by decide

/-- The release level met and missed by one, with exit debounce 1 and 2. -/
theorem test_meets_EngagedPointMoves :
    let pt := { point12 with state := .engaged }
    pt.state = .engaged ∧ isSaturated 20249 = false ∧ pt.armedReseed = false ∧ pt.seedPending = false ∧
    rawDelta .rising 20249 pt.baseline - GroupView.alone.compensation = 249 ∧ (249 : Int) < pt.cfg.threshold - pt.cfg.hysteresis ∧
    rawDelta .rising 20250 pt.baseline - GroupView.alone.compensation = 250 ∧ (pt.cfg.threshold : Int) - pt.cfg.hysteresis ≤ 250 ∧
    pt.cfg.stuckLimit = 0 ∧ 2 ≤ pt.cfg.exitDebounce ∧ ({ pt.cfg with exitDebounce := 1 } : Settings).exitDebounce ≤ 1 := by decide

/-- The last and an earlier step of both debounces, both sides of both levels, and a veto. -/
theorem test_meets_DebouncedMoves :
    let pt := { point12 with cfg := { point12.cfg with enterDebounce := 3 }, state := .entering, debounce := 2 }
    let qt := { point12 with state := .leaving, debounce := 2 }
    isSaturated 20400 = false ∧ pt.armedReseed = false ∧ pt.seedPending = false ∧ pt.debounce + 1 = pt.cfg.enterDebounce ∧
    ({ pt with debounce := 1 } : Point).debounce + 1 < pt.cfg.enterDebounce ∧ qt.debounce + 1 = qt.cfg.exitDebounce ∧
    ({ qt with debounce := 1 } : Point).debounce + 1 < qt.cfg.exitDebounce ∧ qt.cfg.stuckLimit = 0 ∧
    rawDelta .rising 20400 pt.baseline - GroupView.alone.compensation = 400 ∧ (pt.cfg.threshold : Int) ≤ 400 ∧
    rawDelta .rising 20249 pt.baseline - GroupView.alone.compensation = 249 ∧ (249 : Int) < pt.cfg.threshold - pt.cfg.hysteresis ∧
    (GroupView.mk 0 true false).vetoed = true := by decide

/-- A point in no group, a follower with a reference, and a reference itself. -/
theorem test_meets_GroupTakesPart :
    let g : Vector Group 4 := Vector.ofFn fun i =>
      if i = 1 then { members := 7, reference := some 2, weight := 512, halt := true } else Group.reset
    (∀ (i j : Fin 4) (p : PointId), inSet g[i].members p = true → inSet g[j].members p = true → i = j) ∧
    (∀ i : Fin 4, g[i].weight ≤ 512 ∧ (g[i].reference).all fun p => inSet g[i].members p) ∧
    (∀ i : Fin 4, inSet g[i].members 3 = false) ∧ inSet g[(1 : Fin 4)].members 0 = true ∧ g[(1 : Fin 4)].reference = some 2 ∧
    (2 : PointId) ≠ 0 ∧ point12.cfg.direction ≠ .either ∧ point12.state.detecting = true ∧
    (Point.reset).state.detecting = false := by decide

/-- An IDLE point, staying IDLE and engaging, at a stuck limit that would reseed it; an ENGAGED point that disengages where
its counter would reach the limit, and one that stays engaged below it. -/
theorem test_meets_DeltaAndBaseline :
    let one : Point := { point12 with cfg := { point12.cfg with stuckLimit := 1, enterDebounce := 1, exitDebounce := 1 } }
    let engaged : Point := { one with state := .engaged }
    point12.state.detecting = true ∧ isSaturated 1 = false ∧ isSaturated 65534 = false ∧ point12.armedReseed = false ∧
    point12.seedPending = false ∧ point12.stuck ≤ 65535 ∧ ¬ one.StaysEngaged 400 ∧
    (measure 12 one GroupView.alone 20399).pt.state = .idle ∧ (measure 12 one GroupView.alone 20400).pt.state = .engaged ∧
    ¬ engaged.StaysEngaged 249 ∧ rawDelta .rising 20249 engaged.baseline - GroupView.alone.compensation = 249 ∧
    engaged.StaysEngaged 250 ∧ min (({ engaged with stuck := 1 } : Point).stuck + 1) 65535 ≠ engaged.cfg.stuckLimit := by
  unfold Point.StaysEngaged
  decide

/-- The counter one below its limit, and at its greatest value. -/
theorem test_meets_StuckLimitReseeds :
    let pt := { point12 with cfg := { point12.cfg with stuckLimit := 65535 }, state := .engaged, stuck := 65534 }
    isSaturated 20250 = false ∧ pt.armedReseed = false ∧ pt.seedPending = false ∧
    rawDelta .rising 20250 pt.baseline - GroupView.alone.compensation = 250 ∧ pt.StaysEngaged 250 ∧
    ({ pt with state := .leaving, debounce := 1 } : Point).StaysEngaged 249 ∧
    pt.cfg.stuckLimit ≠ 0 ∧ pt.stuck + 1 = pt.cfg.stuckLimit ∧ pt.stuck < 65535 ∧
    min (({ pt with stuck := 65533 } : Point).stuck + 1) 65535 ≠ pt.cfg.stuckLimit ∧ point12.cfg.stuckLimit = 0 := by
  unfold Point.StaysEngaged
  decide

theorem test_meets_MeasurementEndsEarly :
    point12.state.detecting = true ∧ (20000#16) ≠ 0 ∧ (20000#16) ≠ 0xFFFF ∧
    ({ point12 with armedReseed := true } : Point).armedReseed = true ∧ point12.armedReseed = false ∧
    ({ point12 with seedPending := true } : Point).seedPending = true := by decide

/-- Each phase, at its first step and at step 0; the band met and missed by one. -/
theorem test_meets_CalibrationStepDecides :
    let full := Point.startCalibration { point12 with cfg := { point12.cfg with calMode := .full } }
    let band := { point12.cfg with calTarget := 60000, calBand := 4095 }
    full.state = .calibrating ∧ full.calPhase = .coarse ∧ full.calStep = 3 ∧ full.cfg.calMode = .full ∧
    (Point.startCalibration point12).calPhase = .offset ∧ (Point.startCalibration point12).calStep = 9 ∧
    nextStep .coarse 0 = (.fine, 4) ∧ nextStep .offset 0 = (.verify, 0) ∧
    ((64095#16).toNat - (band.calTarget : Int)).natAbs ≤ band.calBand ∧
    band.calBand < ((64096#16).toNat - (band.calTarget : Int)).natAbs := by decide

theorem test_meets_SaturatedSearchCount :
    let pt := { point12 with state := .calibrating, calPhase := .coarse, calStep := 3 }
    pt.state = .calibrating ∧ 64 ≤ pt.cfg.calTarget ∧ pt.cfg.calTarget ≤ 60000 ∧ pt.calPhase = .coarse ∧ pt.calStep < 4 ∧
    ({ pt with calPhase := .fine, calStep := 4 } : Point).calStep < 5 ∧
    ({ pt with calPhase := .offset, calStep := 9 } : Point).calStep < 10 ∧
    ({ pt with calPhase := .verify } : Point).calPhase = .verify := by decide

/-- Points 0 and 31, with and without a spot that waits; a point that takes an armed recalibrate and one that does not; a
long record and a short one, at 48 bytes into a 64-byte block and before. -/
theorem test_meets_ScanConversionThenNextSlot :
    let s := (scanning point12).setPoint 31 point12
    let w := (s.setArb { s.arb with spotWaits := true }).setSpt { s.spt with state := .queued spotOn0 }
    let armed : Point := { point12 with armedRecal := true }
    s.NextSlot 0 31 ∧ s.arb.grant = .scan ⟨1, ⟨0, 0, 0⟩⟩ ∧ s.arb.scanWaits = false ∧ s.eng.slot = some 0 ∧
    s.eng.frameState = .scanning ∧ s.arb.spotWaits = false ∧ w.arb.spotWaits = true ∧ w.spt.state = .queued spotOn0 ∧
    w.arb.grant = .scan ⟨1, ⟨0, 0, 0⟩⟩ ∧ armed.takesRecal = true ∧ ({ armed with armedReseed := true } : Point).takesRecal = false ∧
    ({ armed with state := .fault } : Point).takesRecal = true ∧
    (measure 0 { point12 with cfg := { point12.cfg with enterDebounce := 1, verbose := true } } GroupView.alone 20400).record.any
      (·.long) = true ∧
    (recordWrites 0x200030 [0, 1, 2, 3, 4, 5, 6, 7]).length = 2 ∧ (recordWrites 0x200020 [0, 1, 2, 3, 4, 5, 6, 7]).length = 1 ∧
    (recordWrites 0x200030 [0, 1, 2, 3]).length = 1 := by
  unfold State.NextSlot
  decide

/-- The last slot of a frame and of a cut frame: no start pending, and one with room and with none; a boundary request that
waits; a spot that waits; every closing mark, over a page with records and with none. -/
theorem test_meets_ScanConversionEndsFrame :
    let s := scanning point12
    let b := block 13 0 7 []
    let due := s.setEng { s.eng with startPending := true, merged := 2 }
    let fed := due.setJrn { Journal.reset with queue := [0x300000] }
    let w := (s.setArb { s.arb with spotWaits := true }).setSpt { s.spt with state := .queued spotOn0 }
    let late := after (.scanConversionComplete 20000) (serving .linkRead 8 [] (due.walkTo .fetchLink))
    (s.arb.grant = .scan ⟨1, ⟨0, 0, 0⟩⟩ ∧ s.arb.scanWaits = false ∧ s.arb.spotWaits = false ∧ s.eng.slot = some 0 ∧
      s.eng.frameState = .scanning ∧ s.eng.startPending = false ∧ (∀ r : PointId, 0 < r → (s.point r).slotConverts = false) ∧
      (s.setEng { s.eng with frameState := .cutting }).eng.frameState = .cutting ∧ w.arb.spotWaits = true ∧
      w.arb.grant = .scan ⟨1, ⟨0, 0, 0⟩⟩ ∧ due.eng.startPending = true) ∧
    (s.walkTo (.awaiting (held b) .passed)).Awaits (held b) (.mark 7) ∧ s.waitingBoundary = none ∧
    (after (.scanConversionComplete 20000) due).eng.gap = 3 ∧ late.mir.writing.map (·.image) = some late.imageNow ∧
    late.mir.waiting = none ∧ late.port.length = 2 ∧
    ((after (.scanConversionComplete 20000) fed).eng.frameState = .scanning ∧
      (after (.scanConversionComplete 20000) fed).jrn.frameOpen = true) ∧
    ([CloseMark.none, .linger, .flush].all fun m =>
      (s.setJrn { paged.jrn with closeMark := m }).jrn.closeMark = m && (s.setJrn { Journal.reset with closeMark := m }).jrn.page = none) =
        true :=
  ⟨by decide, ⟨.inl rfl, parse_eq_ok.2 (by decide), rfl⟩, by decide, by decide, by decide, by decide, by decide, by decide,
    by decide⟩

/-- A first and a last sub-conversion, and one under an order; a slot that waits, of the spot's own point, calibrating. -/
theorem test_meets_SpotSubconversionCompletes :
    let s := (running.setArb { grant := .spot ⟨1, ⟨0, 0, 0⟩⟩, scanWaits := false, spotWaits := false }).setSpt
      { State.reset.spt with state := .converting spotOn0 ⟨0, 0, 0, 0, 0⟩ none }
    s.arb.grant = .spot ⟨1, ⟨0, 0, 0⟩⟩ ∧ s.arb.spotWaits = false ∧ s.spt.state = .converting spotOn0 ⟨0, 0, 0, 0, 0⟩ none ∧
    0 + 1 < spotOn0.multiplier ∧ spotOn0.multiplier ≤ (SpotSums.mk 3 0 0 0 0).done + 1 ∧
    (s.setSpt { s.spt with state := .converting spotOn0 ⟨3, 0, 0, 0, 0⟩ (some .aborted) }).spt.state =
      .converting spotOn0 ⟨3, 0, 0, 0, 0⟩ (some .aborted) ∧
    let own := (((s.setPoint 0 { point12.startCalibration with spotBusy := true }).setArb { s.arb with scanWaits := true }).setSpt
      { s.spt with state := .converting spotOn0 ⟨3, 0, 0, 0, 0⟩ (some .aborted) })
    let t := after (.spotSubconversionComplete 5) (own.setEng { own.eng with slot := some 0 })
    t.arb.grant = .scan ⟨1, ⟨0, 0, 512⟩⟩ ∧ (t.point 0).spotBusy = false ∧ (t.point 0).tuning = ⟨0, 0, 512⟩ := by decide

/-- A result write, a CLOSED write with and without a SPOT that waits, and a snapshot's last record and an earlier one. -/
theorem test_meets_SpotUnitWritesComplete :
    let w : SpotWrite := { kind := .closed, addr := 0x100204, data := [1] }
    let s := serving .spotWrite 0x100204 [1] (running.setSpt { State.reset.spt with state := .closing spotOn0 .done, writes := [w] })
    let b := block 14 1 7 (List.replicate 12 0 ++ [0x00004000#32])
    let r := serving .snapshotWrite 0x300000 [1] (running.setSpt { State.reset.spt with
      writes := [{ kind := .snapshotRecord, addr := 0x300000, data := [1] }], snapshot := some ⟨2, 2⟩ })
    s.port = { kind := .spotWrite, addr := 0x100204, data := [1] } :: [] ∧ s.spt.writes = w :: [] ∧ w.kind = .closed ∧
    s.spt.state = .closing spotOn0 .done ∧ (SpotWriteKind.result ≠ .closed) ∧ s.wk.state = .resting ∧
    (s.walkTo (.workingSpot (held b))).wk.state = .workingSpot (held b) ∧ parse b = .ok (.spot 0 64) ∧
    r.spt.snapshot = some ⟨2, 2⟩ ∧ 1 < (SnapshotJob.mk 2 2).left ∧ (SnapshotJob.mk 2 1).left ≤ 1 ∧
    (walking (.awaiting (held b) .applied)).wk.state = .awaiting (held b) .applied :=
  ⟨rfl, rfl, rfl, rfl, by decide, rfl, rfl, parse_eq_ok.2 (by decide), rfl, by decide, by decide, rfl⟩

/-- A record's write and a CLOSED header's, and a mirror write with an image waiting and with none. -/
theorem test_meets_JournalAndMirrorWritesComplete :
    let w : JournalWrite := { addr := 0x200000, data := [1], closes := some ⟨1, .flush⟩ }
    let s := (serving .journalWrite 0x200000 [1] (running.setJrn { Journal.reset with writes := [w] })).walkTo
      (.workingFlush (held (block 5 0 0 [])))
    let i : Image := { frameNumber := 1, lastRecord := 0, openPage := 0, anchor := 0, gap := 0, pagesQueued := 0, rate := .brisk,
                       starved := false }
    let m := (serving .mirrorWrite 32 i.words running).setMir
      { writing := some ⟨i, false⟩, waiting := some i, during := .between }
    s.port = { kind := .journalWrite, addr := 0x200000, data := [1] } :: [] ∧ s.jrn.writes = w :: [] ∧
    w.closes = some ⟨1, .flush⟩ ∧ s.wk.state = .workingFlush (held (block 5 0 0 [])) ∧
    ({ w with closes := none } : JournalWrite).closes = none ∧
    m.port = { kind := .mirrorWrite, addr := 32, data := i.words } :: [] ∧ m.mir.writing = some ⟨i, false⟩ ∧
    m.mir.waiting = some i ∧ m.ctl.op = .running ∧ (m.setMir { m.mir with waiting := none }).mir.waiting = none := by decide

/-- Every unit settled, a device that is not STOPPING, and one with an access of the walker outstanding. -/
theorem test_meets_EnterStoppedCaptures :
    let s := inState .stopping false
    s.ctl.op = .stopping ∧ s.wk.state = .idle ∧ s.port = [] ∧ s.eng.frameState = .parked ∧ s.arb.Idle ∧
    s.spt = State.reset.spt ∧ s.jrn.writes = [] ∧ s.mir.writing = none ∧ running.ctl.op ≠ .stopping ∧
    (after .enterStopped s).ctl.op = .stopped ∧ (∃ a ∈ (serving .linkRead 8 [] s).port, a.kind.agent = .walker) :=
  ⟨rfl, rfl, rfl, rfl, ⟨rfl, rfl, rfl⟩, rfl, rfl, rfl, by decide, by decide, _, List.mem_singleton.2 rfl, rfl⟩

theorem test_meets_MemoryStaysCanonical : State.reset.MemoryCanonical ∧ step State.reset = .next State.reset :=
  ⟨List.Pairwise.nil, rfl⟩

theorem test_meets_ModesStayCoherent : State.reset.ctl.Coherent ∧ State.reset.ModeCoherent ∧ State.reset.GapCounts :=
  ⟨by unfold ControlUnit.Coherent; decide, ⟨⟨rfl, rfl, rfl, rfl, rfl, rfl, rfl⟩, rfl⟩, by unfold State.GapCounts; decide⟩

theorem test_meets_PagePoolStaysSound : paged.jrn.PoolOk :=
  ⟨by decide, by decide, fun a h => by
    have : a = 0x200000#32 := by simpa [paged, page1, Journal.reset] using h
    subst this
    decide⟩

theorem test_meets_PointsStayInRange : State.reset.PointsOk := fun p => by
  simp [State.point, State.reset, ScanEngine.reset, Point.Ok, Point.reset, Settings.InRange, Settings.reset, Point.DebounceOk]

theorem test_meets_GroupsStayDisjoint : GroupsOk State.reset.eng.groups :=
  ⟨fun i j p h => by simp [State.reset, ScanEngine.reset, Group.reset, inSet] at h,
    fun i => by simp [State.reset, ScanEngine.reset, Group.reset]⟩

/-- A state that a view must follow, and one in FAULTED. -/
theorem test_meets_ViewFollowsTable :
    State.reset.ViewFollows ∧ State.reset.ctl.op ≠ .faulted ∧ (inState .faulted true).ViewFollows :=
  ⟨⟨rfl, fun _ p => by simp [State.point, State.reset, ScanEngine.reset, OutputUnit.reset, Point.reset]⟩, by decide,
    rfl, fun h => absurd rfl h⟩

theorem test_meets_OneAccessAnAgent : State.reset.PortOk := by
  unfold State.PortOk
  decide

end Sys2Proof.Tests
end

section
/-! SUPPORT. 02_the_request_chain.md, proved: what the walker's operations lead to, one equation a branch, and from them the
statements on a LOOK, on the walker's reads and writes, and on the hand-off of a SPOT. -/

namespace Sys2Proof.Machine.RequestChain

/-! ### The memory port -/

/-- A read that completes leaves memory as it was. -/
theorem retire_read {s : State} {k : AccessKind} {addr : Word} {rest : List Access}
    (h : s.port = { kind := k, addr := addr, data := [] } :: rest) : retire s = s.setPort rest :=
  retire_cons h

/-! ### Looks and answers (R22, R23, R26, R30) -/

theorem startLook_eq (s : State) : startLook s = (s.setWk { s.wk with state := .fetchLink }).setPort
    (s.port ++ [{ kind := .linkRead, addr := s.wk.anchor.linkAddr s.ctl.areaBase, data := [] }]) := rfl

theorem enterResting_of_pending {s : State} (h : s.wk.pendingLook = true) :
    enterResting s = (s.setWk { s.wk with state := .fetchLink, pendingLook := false }).setPort
      (s.port ++ [{ kind := .linkRead, addr := s.wk.anchor.linkAddr s.ctl.areaBase, data := [] }]) := by
  rw [enterResting, if_pos h, startLook_eq]
  rfl

theorem enterResting_of_not_pending {s : State} (h : s.wk.pendingLook = false) :
    enterResting s = s.setWk { s.wk with state := .resting } := by
  rw [enterResting, h]
  rfl

theorem hearLook_resting {s : State} (h : s.wk.state = .resting) : hearLook s = startLook s := by
  rw [hearLook, h]

/-- A busy walker keeps one pending look, however many LOOKs it hears (R23). -/
theorem hearLook_busy {s : State} (hr : s.wk.state ≠ .resting) (hi : s.wk.state ≠ .idle) :
    hearLook s = s.setWk { s.wk with pendingLook := true } := by
  unfold hearLook
  split
  case h_1 h => exact absurd h hr
  case h_2 h => exact absurd h hi
  case h_3 => rfl

theorem answer_eq (h : Held) (a : Answer) (s : State) :
    answer h a s = (s.setWk { s.wk with state := .closingResult h a }).setPort
      (s.port ++ [{ kind := .resultWrite, addr := h.addr + 8,
                    data := ofHalves (blockHalf h.block 8) a.code.code :: a.value :: a.params }]) := rfl

theorem anchorAndLook_eq (addr : Word) (s : State) :
    anchorAndLook addr s = (s.setWk { s.wk with state := .fetchLink, anchor := .block addr }).setPort
      (s.port ++ [{ kind := .linkRead, addr := addr, data := [] }]) := rfl

/-! ### A LOOK heard (R178 step 4) -/

/-- A CONTROL write that asks for no reset and no change of RUN is accepted (R178 step 3). -/
theorem controlWrite_accepted {data : Word} {s : State} (hh : s.ctl.resetHeld = false) (hr : Control.reset data = false)
    (hrun : Control.run data = s.ctl.run) : controlWrite data s = acceptControl (Control.look data) s := by
  simp [controlWrite, hh, hr, hrun]

theorem acceptControl_look {s : State} (h : s.ctl.op = .running) :
    acceptControl true s = hearLook (s.setCtl { s.ctl with refusedWrite := false }) :=
  if_pos ⟨rfl, h⟩

/-- Settles O7: the LOOK is heard behind an accepted write, and the walker's state says what it does with it. -/
theorem lookIsHeard : Obligations.LookIsHeard := by
  refine ⟨fun _ _ => ⟨rfl, rfl⟩, fun c data s hc hh hr hrun hl ho => ?_⟩
  have hx : exec c s = .next (hearLook (s.setCtl { s.ctl with refusedWrite := false })) := by
    rw [exec_control s hc, controlWrite_accepted hh hr hrun, hl, acceptControl_look ho]
  rw [hx]
  exact ⟨fun hw => congrArg _ (hearLook_resting hw), fun hw hi => congrArg _ (hearLook_busy hw hi)⟩

/-! ### The walker's reads complete (R24, R25) -/

/-- The walker's own link read completes: its outcome is discarded in STOPPING (R34). -/
theorem exec_linkReadComplete {link addr : Word} {s : State} {rest : List Access} (hw : s.wk.state = .fetchLink)
    (hp : s.port = { kind := .linkRead, addr := addr, data := [] } :: rest) :
    exec (.linkReadComplete link) s = .next (if s.ctl.op = .stopping then (s.setPort rest).walkTo .idle
      else takeLink link (s.setPort rest)) := by
  have hs : s.serving .linkRead = true := State.serving_cons hp _
  have he : exec (.linkReadComplete link) s = .next (linkRead link s) := rfl
  rw [he, linkRead, hw]
  simp [hs, retire_read hp]

/-- The walker's own block read completes: its outcome is discarded in STOPPING (R34). -/
theorem exec_blockReadComplete {block : Vector Word 16} {a addr : Word} {s : State} {rest : List Access}
    (hw : s.wk.state = .fetchBlock a) (hp : s.port = { kind := .blockRead, addr := addr, data := [] } :: rest) :
    exec (.blockReadComplete block) s = .next (if s.ctl.op = .stopping then (s.setPort rest).walkTo .idle
      else takeBlock a block (s.setPort rest)) := by
  have hs : s.serving .blockRead = true := State.serving_cons hp _
  have he : exec (.blockReadComplete block) s = .next (blockRead block s) := rfl
  rw [he, blockRead, hw]
  simp [hs, retire_read hp]

/-- A link that leads to no block: the walker rests, the bad-link flag telling 0 from a misaligned link (R24). -/
theorem takeLink_rests {link : Word} (s : State) (h : link = 0 ∨ link.toNat % 64 ≠ 0) :
    takeLink link s = enterResting (s.setWk { s.wk with badLink := decide (link ≠ 0) }) := by
  by_cases h0 : link = 0
  · simp [takeLink, h0]
  · rw [takeLink, if_neg h0, if_pos (h.resolve_left h0), decide_eq_true h0]

theorem takeLink_fetches {link : Word} (s : State) (h0 : link ≠ 0) (h64 : link.toNat % 64 = 0) :
    takeLink link s = (s.setWk { s.wk with state := .fetchBlock link, badLink := false }).setPort
      (s.port ++ [{ kind := .blockRead, addr := link, data := [] }]) := by
  rw [takeLink, if_neg h0, if_neg (fun h => h h64)]
  rfl

theorem takeBlock_takes {block : Vector Word 16} (a : Word) (s : State) (h : blockByte block 4 = 2) :
    takeBlock a block s = (s.setWk { s.wk with state := .fetchTaken { addr := a, block := block } }).setPort
      (s.port ++ [{ kind := .takenWrite, addr := a + 4, data := [ofBytes 3 (blockByte block 5) (blockByte block 6) 0] }]) :=
  if_pos h

theorem takeBlock_rests {block : Vector Word 16} (a : Word) (s : State) (h : blockByte block 4 ≠ 2) :
    takeBlock a block s = enterResting s :=
  if_neg h

/-- Settles O20: by what was read, STOPPING and the pending look. -/
theorem walkerReadsDecide : Obligations.WalkerReadsDecide := by
  constructor
  · intro link s addr rest hw hp
    rw [exec_linkReadComplete hw hp]
    refine ⟨fun ho => ?_, fun ho hl h => ?_, fun ho hl h => ?_, fun ho h0 h64 => ?_⟩
    · rw [if_pos ho]
      rfl
    · rw [if_neg ho, takeLink_rests _ h]
      exact congrArg _ (enterResting_of_not_pending hl)
    · rw [if_neg ho, takeLink_rests _ h]
      exact congrArg _ (enterResting_of_pending hl)
    · rw [if_neg ho, takeLink_fetches _ h0 h64]
      rfl
  · intro block s a addr rest hw hp
    rw [exec_blockReadComplete hw hp]
    refine ⟨fun ho => ?_, fun ho h => ?_, fun ho h hl => ?_, fun ho h hl => ?_⟩
    · rw [if_pos ho]
      rfl
    · rw [if_neg ho, takeBlock_takes _ _ h]
      rfl
    · rw [if_neg ho, takeBlock_rests _ _ h]
      exact congrArg _ (enterResting_of_not_pending hl)
    · rw [if_neg ho, takeBlock_rests _ _ h]
      exact congrArg _ (enterResting_of_pending hl)

/-! ### The walker's writes complete (R18, R25 to R28) -/

/-- A refused block is answered with its code, and any other goes on by its class (R28). -/
theorem goOnByClass_refuses {h : Held} {code : ResultCode} (s : State) (hp : parse h.block = .error code) :
    goOnByClass h s = answer h (Answer.refused code) s := by
  rw [goOnByClass, hp]

theorem goOnByClass_goesOn {h : Held} {r : Request} (s : State) (hp : parse h.block = .ok r) :
    goOnByClass h s = s.walkTo (if r.cls = .boundary then .awaiting h .passed else .workingUnit h) := by
  rw [goOnByClass, hp]
  cases hc : r.cls <;> simp only [hc] <;> rfl

theorem exec_takenWriteComplete {s : State} {h : Held} {a : Access} {rest : List Access} (hw : s.wk.state = .fetchTaken h)
    (hp : s.port = a :: rest) (hk : a.kind = .takenWrite) :
    exec .takenWriteComplete s =
      .next (goOnByClass h ((s.setPort rest).setMem (Memory.putWords s.mem a.addr.toNat a.data))) := by
  have he : exec .takenWriteComplete s = .next (takenWritten s) := rfl
  rw [he, takenWritten, hw]
  simp [State.serving_cons hp, hk, retire_cons hp]

theorem exec_resultWriteComplete {s : State} {h : Held} {ans : Answer} {a : Access} {rest : List Access}
    (hw : s.wk.state = .closingResult h ans) (hp : s.port = a :: rest) (hk : a.kind = .resultWrite) :
    exec .resultWriteComplete s = .next (issue .closedWrite (h.addr + 4) [closedWord h.block]
      (((s.setPort rest).setMem (Memory.putWords s.mem a.addr.toNat a.data)).walkTo (.closingStatus h ans))) := by
  have he : exec .resultWriteComplete s = .next (resultWritten s) := rfl
  rw [he, resultWritten, hw]
  simp [State.serving_cons hp, hk, retire_cons hp]

theorem exec_closedWriteComplete {s : State} {h : Held} {ans : Answer} {a : Access} {rest : List Access}
    (hw : s.wk.state = .closingStatus h ans) (hp : s.port = a :: rest) (hk : a.kind = .closedWrite) :
    exec .closedWriteComplete s = .next (moveOn h (notifyIf (blockByte h.block 6)
      ((s.setPort rest).setMem (Memory.putWords s.mem a.addr.toNat a.data)))) := by
  have he : exec .closedWriteComplete s = .next (closedWritten s) := rfl
  rw [he, closedWritten, hw]
  simp [State.serving_cons hp, hk, retire_cons hp]

/-- Bit 0 of the flags decides whether NOTIFY is raised (R19). -/
theorem notifyIf_eq (flags : Byte) (s : State) :
    notifyIf flags s = s.setAtn (if flags.getLsbD 0 then s.atn.raise .notify else s.atn) := by
  unfold notifyIf notifyBit
  split <;> rfl

/-- The block just closed becomes the anchor, in STOPPING with no look on it (R26, R34). -/
theorem moveOn_stopping {h : Held} {s : State} (ho : s.ctl.op = .stopping) :
    moveOn h s = s.setWk { s.wk with state := .idle, anchor := .block h.addr } :=
  if_pos ho

theorem moveOn_looks {h : Held} {s : State} (ho : s.ctl.op ≠ .stopping) :
    moveOn h s = (s.setWk { s.wk with state := .fetchLink, anchor := .block h.addr }).setPort
      (s.port ++ [{ kind := .linkRead, addr := h.addr, data := [] }]) :=
  (if_neg ho).trans (anchorAndLook_eq _ _)

/-- Settles O21: the layouts and the content checks by the walker's reading of a block, each completion by its write. -/
theorem walkerWritesGoOn : Obligations.WalkerWritesGoOn := by
  refine ⟨rfl, parse_reads, answer_eq, fun s h a rest hw hp hk mem hm => ?_, fun s h ans a rest hp mem hm => ?_⟩
  · subst hm
    rw [exec_takenWriteComplete hw hp hk]
    refine ⟨fun code hb => ?_, fun r hb => ?_⟩
    · rw [goOnByClass_refuses _ hb, answer_eq]
      rfl
    · rw [goOnByClass_goesOn _ hb]
      rfl
  · subst hm
    refine ⟨fun hw hk => ?_, fun hw hk atn ha => ?_⟩
    · rw [exec_resultWriteComplete hw hp hk]
      rfl
    · subst ha
      rw [exec_closedWriteComplete hw hp hk, notifyIf_eq]
      exact ⟨fun ho => congrArg _ (moveOn_stopping ho), fun ho => congrArg _ (moveOn_looks ho)⟩

/-! ### The spot unit accepts (R150, R47) -/

theorem setBusy_point_same (s : State) (p : PointId) (b : Bool) : (s.setBusy p b).point p = { s.point p with spotBusy := b } :=
  State.point_setPoint_same s p _

theorem setBusy_point_other (s : State) {p q : PointId} (h : q ≠ p) (b : Bool) : (s.setBusy p b).point q = s.point q :=
  State.point_setPoint_other s h _

/-- The mark does not touch the values a conversion takes (R53, R45). -/
theorem setBusy_conversion (s : State) (p : PointId) (b : Bool) :
    ((s.setBusy p b).point p).conversion = ⟨(s.point p).cfg.integration, (s.point p).tuning⟩ := by
  rw [setBusy_point_same]
  rfl

/-- A QUEUED spot's request meets a FREE converter: granted at once, with its point's own values (R45, R47). -/
theorem requestSpot_granted {s : State} {k : SpotHeld} (hq : s.spt.state = .queued k) (hf : s.arb.grant = .free) :
    requestSpot s = (s.setArb { s.arb with grant := .spot (s.point k.point).conversion, spotWaits := false }).setSpt
      { s.spt with state := .converting k SpotSums.zero none } := by
  rw [requestSpot, if_pos hf, grantSpot, hq]

theorem requestSpot_waits {s : State} (hf : s.arb.grant ≠ .free) :
    requestSpot s = s.setArb { s.arb with spotWaits := true } :=
  if_neg hf

section
variable (h : Held) (p : PointId) (m : Nat) (s : State)

theorem acceptSpot_eng : (acceptSpot h p m s).eng = (s.setBusy p true).eng := by simp [acceptSpot]

theorem acceptSpot_point (q : PointId) : (acceptSpot h p m s).point q = (s.setBusy p true).point q := by
  rw [State.point, State.point, acceptSpot_eng]

/-- The spot's block becomes the walker's anchor, and a look on it starts (R150, R26). -/
theorem acceptSpot_walks :
    (acceptSpot h p m s).wk = { s.wk with state := .fetchLink, anchor := .block h.addr } ∧
    (acceptSpot h p m s).port = s.port ++ [{ kind := .linkRead, addr := h.addr, data := [] }] := by
  simp [acceptSpot, anchorAndLook_eq]

end

theorem acceptSpot_granted (h : Held) (p : PointId) (m : Nat) {s : State} (hf : s.arb.grant = .free) :
    (acceptSpot h p m s).arb =
      { s.arb with grant := .spot ⟨(s.point p).cfg.integration, (s.point p).tuning⟩, spotWaits := false } ∧
    (acceptSpot h p m s).spt = { s.spt with
      state := .converting
        { addr := h.addr, point := p, multiplier := m, flags := blockByte h.block 6, tag := blockHalf h.block 8 }
        ⟨0, 0, 0, 0, 0⟩ none } := by
  rw [acceptSpot, requestSpot_granted rfl (by simpa using hf)]
  exact ⟨congrArg (fun c => { s.arb with grant := .spot c, spotWaits := false }) (setBusy_conversion s p true), rfl⟩

theorem acceptSpot_waits (h : Held) (p : PointId) (m : Nat) {s : State} (hf : s.arb.grant ≠ .free) :
    (acceptSpot h p m s).arb = { s.arb with spotWaits := true } ∧
    (acceptSpot h p m s).spt = { s.spt with
      state := .queued
        { addr := h.addr, point := p, multiplier := m, flags := blockByte h.block 6, tag := blockHalf h.block 8 } } := by
  rw [acceptSpot, requestSpot_waits (by simpa using hf)]
  simp

/-! ### The held spot is ordered to end (R53, R153, R154) -/

section
variable (k : SpotHeld) (code : ResultCode) (value : Word) (params : List Word) (s : State)

theorem endSpot_eng : (endSpot k code value params s).eng = (s.setBusy k.point false).eng := by simp [endSpot]

theorem endSpot_point (q : PointId) : (endSpot k code value params s).point q = (s.setBusy k.point false).point q := by
  rw [State.point, State.point, endSpot_eng]

/-- The result access and the CLOSED write join the write list (R152). -/
theorem endSpot_spt : (endSpot k code value params s).spt = { s.spt with
    state := .closing k code
    writes := s.spt.writes ++
      [{ kind := .result, addr := k.addr + 8, data := resultWords k.tag code value params },
       { kind := .closed, addr := k.addr + 4, data := [ofBytes 4 14 k.flags 0] }] } := by
  rw [endSpot, pushSpots_spt]
  simp [statusWord, spotKindCode]

end

section
variable {s : State} {k : SpotHeld} {sums : SpotSums} {first : ResultCode} (code : ResultCode)

theorem orderSpotEnd_queued (h : s.spt.state = .queued k) : orderSpotEnd code s = endSpot k code 0 [] (withdrawSpot s) := by
  rw [orderSpotEnd, h]

theorem orderSpotEnd_converting (h : s.spt.state = .converting k sums none) :
    orderSpotEnd code s = s.setSpt { s.spt with state := .converting k sums (some code) } := by
  rw [orderSpotEnd, h]

/-- The first order decides the code: a later one changes nothing (R53). -/
theorem orderSpotEnd_ordered (h : s.spt.state = .converting k sums (some first)) : orderSpotEnd code s = s := by
  rw [orderSpotEnd, h]

theorem orderSpotEnd_closing (h : s.spt.state = .closing k first) : orderSpotEnd code s = s := by
  rw [orderSpotEnd, h]

end

/-- Of the scan engine an order touches points alone. -/
theorem orderSpotEnd_eng (code : ResultCode) (s : State) :
    (orderSpotEnd code s).eng = { s.eng with points := (orderSpotEnd code s).eng.points } := by
  cases h : s.spt.state with
  | empty => rw [orderSpotEnd, h]
  | queued k =>
    rw [orderSpotEnd_queued code h, endSpot_eng]
    rfl
  | converting k sums ending =>
    cases ending with
    | none =>
      rw [orderSpotEnd_converting code h]
      rfl
    | some first => rw [orderSpotEnd_ordered code h]
  | closing k first => rw [orderSpotEnd_closing code h]

/-! ### The hand-off of a SPOT (R32) -/

theorem exec_spot {s : State} {h : Held} {p : PointId} {m : Nat} (hw : s.Working h (.spot p m)) :
    exec .spot s = .next (receiveTogether s.port.length (applySpot h p m s)) :=
  congrArg Host.Outcome.next (workingStep_eq hw rfl)

theorem exec_spot_refused {s : State} {h : Held} {p : PointId} {m : Nat} {code : ResultCode} (hw : s.Working h (.spot p m))
    (ha : applySpot h p m s = answer h (Answer.refused code) s) :
    exec .spot s = .next (answer h { code := code, value := 0, params := [] } s) := by
  rw [exec_spot hw, ha, receiveTogether_answer _ _ rfl]
  rfl

section
variable {s : State} (h : Held) {p : PointId} (m : Nat)

/-- STOPPING asks nothing of the point (log entry 14). -/
theorem applySpot_stopping (ho : s.ctl.op = .stopping) : applySpot h p m s = answer h (Answer.refused .aborted) s :=
  if_pos ho

theorem applySpot_disabled (ho : s.ctl.op ≠ .stopping) (hd : (s.point p).state = .disabled) :
    applySpot h p m s = answer h (Answer.refused .pointDisabled) s := by
  rw [applySpot, if_neg ho, hd]

theorem applySpot_calibrating (ho : s.ctl.op ≠ .stopping) (hc : (s.point p).state = .calibrating) :
    applySpot h p m s = answer h (Answer.refused .pointBusy) s := by
  rw [applySpot, if_neg ho, hc]

/-- A point that passes leaves the choice to the spot unit's state. -/
theorem applySpot_passed (ho : s.ctl.op ≠ .stopping) (hd : (s.point p).state ≠ .disabled)
    (hc : (s.point p).state ≠ .calibrating) :
    (s.spt.state = .empty → applySpot h p m s = acceptSpot h p m s) ∧
    (s.spt.state ≠ .empty → applySpot h p m s = orderSpotEnd .superseded (s.walkTo (.workingSpot h))) := by
  rw [applySpot, if_neg ho]
  split
  case h_1 e => exact absurd e hd
  case h_2 e => exact absurd e hc
  case h_3 =>
    refine ⟨fun he => by rw [he], fun he => ?_⟩
    split
    case h_1 e => exact absurd e he
    case h_2 => rfl

end

/-- An acceptance issues one access, so its order of receipt is settled. -/
theorem exec_spot_accepted {s : State} {h : Held} {p : PointId} {m : Nat} (hw : s.Working h (.spot p m))
    (ha : applySpot h p m s = acceptSpot h p m s) : exec .spot s = .next (acceptSpot h p m s) := by
  rw [exec_spot hw, ha, receiveTogether_one]
  simp [acceptSpot_walks]

/-- Settles O33: by STOPPING, the point's state and the spot unit's. -/
theorem spotHandedOver : Obligations.SpotHandedOver := by
  intro s h p m hw
  refine ⟨fun ho => exec_spot_refused hw (applySpot_stopping h m ho),
    fun ho hd => exec_spot_refused hw (applySpot_disabled h m ho hd),
    fun ho hc => exec_spot_refused hw (applySpot_calibrating h m ho hc), fun ho hd hc => ?_⟩
  obtain ⟨accepts, supersedes⟩ := applySpot_passed h m ho hd hc
  constructor
  · intro he
    obtain ⟨wk, port⟩ := acceptSpot_walks h p m s
    refine ⟨_, exec_spot_accepted hw (accepts he), ?_, fun q hq => ?_, wk, port, ?_, by simp, by simp, by simp, by simp,
      by simp, by simp, ?_⟩
    · rw [acceptSpot_point, setBusy_point_same]
    · rw [acceptSpot_point, setBusy_point_other _ hq]
    · rw [acceptSpot_eng]
      rfl
    · rintro k rfl
      exact ⟨acceptSpot_granted h p m, acceptSpot_waits h p m⟩
  · intro he
    have hx := exec_spot hw
    rw [supersedes he] at hx
    refine ⟨_, hx, by simp, ?_, by simp, by simp, by simp, by simp, by simp, by simp, fun k hk => ?_, fun k sums hk => ?_,
      fun k sums code hk => ?_, fun k code hk => ?_⟩
    · simpa using orderSpotEnd_eng .superseded (s.walkTo (.workingSpot h))
    · rw [orderSpotEnd_queued (s := s.walkTo (.workingSpot h)) .superseded hk]
      simp only [receiveTogether_keeps, receiveTogether_point, endSpot_spt, endSpot_keeps, endSpot_point]
      exact ⟨rfl, rfl, setBusy_point_same .., fun q hq => setBusy_point_other _ hq _⟩
    · rw [orderSpotEnd_converting (s := s.walkTo (.workingSpot h)) .superseded hk, receiveTogether_one (by simp)]
      exact ⟨rfl, rfl, rfl, rfl⟩
    · rw [orderSpotEnd_ordered (s := s.walkTo (.workingSpot h)) .superseded hk, receiveTogether_one (by simp)]
      exact ⟨rfl, rfl, rfl, rfl⟩
    · rw [orderSpotEnd_closing (s := s.walkTo (.workingSpot h)) .superseded hk, receiveTogether_one (by simp)]
      exact ⟨rfl, rfl, rfl, rfl⟩

end Sys2Proof.Machine.RequestChain
end

section
/-! SUPPORT. 03_sense_points_and_the_converter.md, proved: what keeps a point's record one the rules leave, what CONFIG_POINT,
RELEASE_POINT and the orders that end a spot do, and what a scan conversion's completion leads to. -/

namespace Sys2Proof.Machine.SensePoints

/-! ### A point's record stays one the rules leave (R39, R40, R58, R78, R87, R94) -/

/-- A baseline at a count lies in its range (R87). -/
theorem countBaseline_le (c : Half) : 256 * c.toNat ≤ 65535 * 256 + 255 := by
  have := c.isLt
  omega

/-- What a record needs in a state that detects: the marks of calibration and of faults are clear there. -/
theorem ok_of_detecting {pt : Point} (cfg : pt.cfg.InRange) (base : pt.baseline ≤ 65535 * 256 + 255) (stuck : pt.stuck ≤ 65535)
    (debounce : pt.DebounceOk) (detecting : pt.state.detecting = true) (cause : pt.faultCause = .none)
    (phase : pt.calPhase = .none) (step : pt.calStep = 0) (seed : pt.seedPending = true → pt.state = .idle) : pt.Ok := by
  have hf : pt.state ≠ .fault := fun e => by simp [e, PointState.detecting] at detecting
  have hc : pt.state ≠ .calibrating := fun e => by simp [e, PointState.detecting] at detecting
  exact ⟨cfg, base, stuck, by omega, debounce, by simp [hf, cause], by simp [hc, phase], fun _ => step, fun _ => detecting,
    fun _ => .inr detecting, seed⟩

section
variable {pt : Point} (h : pt.Ok)
include h

/-- A record that detects has no fault cause and stands in no calibration phase. -/
theorem ok_detecting (hd : pt.state.detecting = true) :
    pt.faultCause = .none ∧ pt.calPhase = .none ∧ pt.calStep = 0 := by
  obtain ⟨-, -, -, -, -, cause, phase, step, -, -, -⟩ := h
  cases hs : pt.state <;> simp [hs, PointState.detecting] at hd cause phase <;> exact ⟨cause, phase, step phase⟩

theorem ok_setBusy (busy : Bool) : { pt with spotBusy := busy }.Ok := h

/-- The tuning prepared at a grant may be any (R40, R59). -/
theorem ok_atGrant : pt.atGrant.Ok := by
  unfold Point.atGrant
  split
  · exact h
  · exact h

end

/-- A point at the start position of its procedure (R58), its marks and counters clear. -/
theorem ok_startCalibration {pt : Point} (cfg : pt.cfg.InRange) (base : pt.baseline ≤ 65535 * 256 + 255)
    (stuck : pt.stuck ≤ 65535) (reseed : pt.armedReseed = false) (recal : pt.armedRecal = false) (seed : pt.seedPending = false)
    (cause : pt.faultCause = .none) (debounce : pt.debounce = 0) : pt.startCalibration.Ok := by
  unfold Point.startCalibration Settings.startPhase Settings.startStep
  refine ⟨cfg, base, stuck, ?_, debounce, by simp [cause], ?_, ?_, by simp [reseed], by simp [recal], by simp [seed]⟩ <;>
    dsimp only <;> split <;> simp

section
variable {pt : Point} (h : pt.Ok)
include h

theorem ok_takeRecal : pt.takeRecal.Ok := by
  obtain ⟨cfg, base, -⟩ := h
  exact ok_startCalibration cfg base (Nat.zero_le _) rfl rfl rfl rfl rfl

theorem ok_configure {cfg : Settings} (hc : cfg.InRange) : (pt.configure cfg).Ok := by
  obtain ⟨-, base, -⟩ := h
  have calibrates := ok_startCalibration (pt := { pt with
    cfg := cfg, tuning := cfg.gains, calPhase := .none, calStep := 0, armedReseed := false, armedRecal := false, seedPending := false
    faultCause := .none, debounce := 0, stuck := 0, lastRawDelta := 0, lastDelta := 0 }) hc base (Nat.zero_le _) rfl rfl rfl rfl rfl
  unfold Point.configure
  dsimp only
  split
  · exact ok_of_detecting hc base (Nat.zero_le _) rfl rfl rfl rfl rfl fun _ => rfl
  · exact calibrates
  · exact calibrates

/-- No debounce counter passes 15, whatever the state (R39, R78). -/
theorem ok_debounce_le : pt.debounce ≤ 15 := by
  obtain ⟨⟨-, -, -, -, -, -, -, -, -, enter, exit, -⟩, -, -, -, debounce, -⟩ := h
  unfold Point.DebounceOk at debounce
  split at debounce <;> omega

theorem ok_release : pt.release.Ok := by
  have debounce := ok_debounce_le h
  obtain ⟨cfg, base, stuck, -⟩ := h
  exact ⟨cfg, base, stuck, Nat.zero_le _, debounce, by simp [Point.release], by simp [Point.release], fun _ => rfl,
    by simp [Point.release], by simp [Point.release], by simp [Point.release]⟩

theorem ok_armRecal : pt.armRecal.Ok := by
  unfold Point.armRecal
  split
  · rename_i ha
    obtain ⟨cfg, base, stuck, step, debounce, cause, phase, step0, reseed, -, seed⟩ := h
    exact ⟨cfg, base, stuck, step, debounce, cause, phase, step0, reseed, fun _ => ha, seed⟩
  · exact h

theorem ok_armReseed : pt.armReseed.Ok := by
  unfold Point.armReseed
  split
  · rename_i ha
    obtain ⟨cfg, base, stuck, step, debounce, cause, phase, step0, -, recal, seed⟩ := h
    exact ⟨cfg, base, stuck, step, debounce, cause, phase, step0, fun _ => ha, recal, seed⟩
  · exact h

end

/-! ### A measurement keeps the record sound -/

/-- A search step stays in the search or goes on to the verification (R58). -/
theorem nextStep_stays {phase : CalPhase} {step : Nat} (hp : phase ≠ .none) (hs : step ≤ 9) :
    (nextStep phase step).1 ≠ .none ∧ (nextStep phase step).2 ≤ 9 := by
  unfold nextStep
  split <;> simp [hp]
  omega

section
variable {pt : Point} (h : pt.Ok)
include h

theorem ok_searchStep (p : PointId) (c : Half) (hp : pt.calPhase ≠ .none) : (searchStep p pt c).pt.Ok := by
  obtain ⟨cfg, base, stuck, step, debounce, cause, phase, -, reseed, recal, seed⟩ := h
  obtain ⟨hn, hs⟩ := nextStep_stays hp step
  exact ⟨cfg, base, stuck, hs, debounce, cause, by simp [searchStep, hn, phase.2 hp], fun e => absurd e hn, reseed, recal, seed⟩

/-- A calibrating point has no mark armed and no seed pending, so both outcomes of the verification start clear (R67, R94). -/
theorem ok_verifyStep (p : PointId) (c : Half) (hp : pt.calPhase ≠ .none) : (verifyStep p pt c).pt.Ok := by
  obtain ⟨cfg, base, stuck, -, debounce, -, phase, -, reseed, recal, seed⟩ := h
  have hs := phase.2 hp
  simp only [hs, PointState.detecting, Bool.false_eq_true, reduceCtorEq, or_self, imp_false, Bool.not_eq_true] at reseed recal seed
  have debounce0 : pt.debounce = 0 := by simpa [Point.DebounceOk, hs] using debounce
  unfold verifyStep
  dsimp only
  split
  · exact ok_of_detecting cfg (countBaseline_le c) (Nat.zero_le _) rfl rfl rfl rfl rfl fun _ => rfl
  · exact ⟨cfg, base, stuck, Nat.zero_le _, debounce0, by simp, by simp, fun _ => rfl, by simp [reseed], by simp, by simp [seed]⟩

theorem ok_calibrationStep (p : PointId) (c : Half) : (calibrationStep p pt c).pt.Ok := by
  unfold calibrationStep
  split
  case h_1 hp => exact ok_verifyStep h p c (by simp [hp])
  case h_5 => exact h
  all_goals
    rename_i hp
    exact ok_searchStep h p c (by simp [hp])

/-- A saturated count (R74). -/
theorem ok_saturate (p : PointId) (c : Half) (hd : pt.state.detecting = true) : (saturate p pt c).pt.Ok := by
  obtain ⟨-, phase, step⟩ := ok_detecting h hd
  obtain ⟨cfg, base, -⟩ := h
  exact ⟨cfg, base, Nat.zero_le _, by simp [saturate, step], rfl, by simp [saturate], by simp [saturate, phase], fun _ => step,
    by simp [saturate], by simp [saturate], by simp [saturate]⟩

/-- An armed reseed taken (R75). -/
theorem ok_reseedByRequest (p : PointId) (c : Half) (hd : pt.state.detecting = true) : (reseedByRequest p pt c).pt.Ok := by
  obtain ⟨cause, phase, step⟩ := ok_detecting h hd
  obtain ⟨cfg, -⟩ := h
  exact ok_of_detecting cfg (countBaseline_le c) (Nat.zero_le _) rfl rfl cause phase step fun _ => rfl

/-- The seed-pending measurement (R51). -/
theorem ok_seed (c : Half) (hd : pt.state.detecting = true) : (seed pt c).pt.Ok := by
  obtain ⟨cause, phase, step⟩ := ok_detecting h hd
  obtain ⟨cfg, -, stuck, -, debounce, -⟩ := h
  exact ok_of_detecting cfg (countBaseline_le c) stuck debounce hd cause phase step (by simp [seed])

end

/-- The engagement state machine leaves a state that detects and a counter that agrees with it (R78 to R82). -/
theorem engagement_keepsDebounce {pt : Point} (vetoed : Bool) (delta : Int) (hd : pt.state.detecting = true) (h : pt.DebounceOk)
    {moved : PointState × Nat} (hm : engagement pt.cfg vetoed pt.state pt.debounce delta = moved) :
    moved.1.detecting = true ∧ { pt with state := moved.1, debounce := moved.2 }.DebounceOk := by
  subst hm
  cases hs : pt.state
  case disabled | calibrating | fault => simp [hs, PointState.detecting] at hd
  case idle | entering | engaged | leaving =>
    simp only [Point.DebounceOk, hs] at h
    simp only [engagement]
    (repeat' split) <;> refine ⟨rfl, ?_⟩ <;> simp only [Point.DebounceOk] <;> omega

/-- A step by a part of the way, quotient toward zero, passes no bound of both its start and its goal. -/
theorem step_toward_le (a b k m : Nat) (ha : a ≤ m) (hb : b ≤ m) :
    ((a : Int) + Int.tdiv ((b : Int) - a) (2 ^ k)).toNat ≤ m := by
  have hk : (2 : Int) ^ k = ((2 ^ k : Nat) : Int) := by simp
  rw [hk]
  rcases Nat.le_total a b with hab | hab
  · obtain ⟨d, rfl⟩ := Nat.exists_eq_add_of_le hab
    have hd : ((a + d : Nat) : Int) - a = (d : Int) := by omega
    have hle := Nat.div_le_self d (2 ^ k)
    rw [hd, ← Int.ofNat_tdiv]
    omega
  · obtain ⟨d, rfl⟩ := Nat.exists_eq_add_of_le hab
    have hd : (b : Int) - ((b + d : Nat) : Int) = -(d : Int) := by omega
    rw [hd, Int.neg_tdiv, ← Int.ofNat_tdiv]
    generalize d / 2 ^ k = part
    omega

/-- The moved baseline stays in the range that the old one and the count lie in (R85, R87). -/
theorem filtered_le (cfg : Settings) (c : Half) {baseline : Nat} (h : baseline ≤ 65535 * 256 + 255) :
    filtered cfg c baseline ≤ 65535 * 256 + 255 := by
  simpa [filtered] using step_toward_le baseline (256 * c.toNat) (beta cfg c baseline) _ h (countBaseline_le c)

theorem nextStuck_le {n : Nat} (h : n ≤ 65535) : nextStuck n ≤ 65535 := by
  unfold nextStuck
  split <;> omega

section
variable {pt : Point} (h : pt.Ok)
include h

/-- Steps 4 to 8 of the pipeline (R76 to R90). -/
theorem ok_track (p : PointId) (g : GroupView) (c : Half) (hd : pt.state.detecting = true) (hseed : pt.seedPending = false) :
    (track p pt g c).pt.Ok := by
  obtain ⟨cause, phase, step⟩ := ok_detecting h hd
  obtain ⟨cfg, base, stuck, -, debounce, -⟩ := h
  unfold track
  dsimp only
  generalize hm : engagement pt.cfg g.vetoed pt.state pt.debounce _ = moved
  obtain ⟨moves, counts⟩ := engagement_keepsDebounce g.vetoed _ hd debounce hm
  have based : (if moved.1 = .idle ∧ g.halted = false then filtered pt.cfg c pt.baseline else pt.baseline) ≤ 65535 * 256 + 255 := by
    split
    · exact filtered_le _ _ base
    · exact base
  have unseeded : ∀ st : PointState, pt.seedPending = true → st = .idle := fun st e => by simp [hseed] at e
  split
  · split
    · split
      · exact ok_of_detecting cfg (countBaseline_le c) (Nat.zero_le _) rfl rfl cause phase step (unseeded _)
      · exact ok_of_detecting cfg based (nextStuck_le stuck) counts moves cause phase step (unseeded _)
    · exact ok_of_detecting cfg based (Nat.zero_le _) counts moves cause phase step (unseeded _)
  · split <;> exact ok_of_detecting cfg based stuck counts moves cause phase step (unseeded _)

theorem ok_detect (p : PointId) (g : GroupView) (c : Half) (hd : pt.state.detecting = true) : (detect p pt g c).pt.Ok := by
  unfold detect
  split
  · exact ok_saturate h p c hd
  split
  · exact ok_reseedByRequest h p c hd
  split
  · exact ok_seed h c hd
  · rename_i hs
    exact ok_track h p g c hd (by simpa using hs)

/-- A slot's measurement, a calibration step or the pipeline by the point's state (R42). -/
theorem ok_measure (p : PointId) (g : GroupView) (c : Half) : (measure p pt g c).pt.Ok := by
  unfold measure
  split
  case h_1 => exact ok_calibrationStep h p c
  case h_6 => exact h
  case h_7 => exact h
  all_goals
    rename_i hs
    exact ok_detect h p g c (by rw [hs]; rfl)

end

/-! ### The point table stays sound -/

/-- What leaves the point table alone keeps it sound. -/
theorem pointsOk_of_eq {s t : State} (h : s.PointsOk) (e : t.eng.points = s.eng.points) : t.PointsOk := fun p => by
  rw [State.point, e]
  exact h p

section
variable {s : State} (h : s.PointsOk)
include h

theorem pointsOk_setPoint (p : PointId) {x : Point} (hx : x.Ok) : (s.setPoint p x).PointsOk := fun q => by
  by_cases e : q = p
  · rw [e, State.point_setPoint_same]
    exact hx
  · rw [State.point_setPoint_other s e]
    exact h q

theorem pointsOk_updatePoint (p : PointId) {x : Point} (hx : x.Ok) : (s.updatePoint p x).PointsOk :=
  pointsOk_of_eq (pointsOk_setPoint h p hx) (by rw [State.updatePoint_eng]; rfl)

theorem pointsOk_setBusy (p : PointId) (b : Bool) : (s.setBusy p b).PointsOk :=
  pointsOk_setPoint h p (ok_setBusy (h p) b)

/-! The converter and the spot unit (R47, R53, R59) -/

theorem pointsOk_grantScan (p : PointId) : (grantScan p s).PointsOk := pointsOk_setPoint h p (ok_atGrant (h p))

theorem pointsOk_requestScan (p : PointId) : (requestScan p s).PointsOk := by
  unfold requestScan
  split
  · exact pointsOk_grantScan h p
  · exact h

theorem pointsOk_releaseConverter : (releaseConverter s).PointsOk := by
  unfold releaseConverter
  dsimp only
  split
  · exact pointsOk_of_eq h (by simp)
  split
  · split
    · exact pointsOk_grantScan (s := s.setArb { s.arb with grant := .free }) h _
    · exact h
  · exact h

theorem pointsOk_endSpot (k : SpotHeld) (code : ResultCode) (value : Word) (params : List Word) :
    (endSpot k code value params s).PointsOk :=
  pointsOk_of_eq (pointsOk_setBusy h k.point false) (by rw [RequestChain.endSpot_eng])

theorem pointsOk_orderSpotEnd (code : ResultCode) : (orderSpotEnd code s).PointsOk := by
  unfold orderSpotEnd
  split
  case h_2 => exact pointsOk_endSpot (s := withdrawSpot s) h _ _ _ _
  all_goals exact h

theorem pointsOk_acceptSpot (hd : Held) (p : PointId) (m : Nat) : (acceptSpot hd p m s).PointsOk :=
  pointsOk_of_eq (pointsOk_setBusy h p true) (by rw [RequestChain.acceptSpot_eng])

theorem pointsOk_acceptWaitingSpot : (acceptWaitingSpot s).PointsOk := by
  unfold acceptWaitingSpot
  split
  · split
    · exact pointsOk_acceptSpot h _ _ _
    · exact h
  · exact h

theorem pointsOk_spotConversion (c : Half) : (spotConversion c s).PointsOk := by
  unfold spotConversion
  dsimp only
  split
  · exact pointsOk_endSpot (pointsOk_releaseConverter h) _ _ _ _
  · split
    · exact h
    · exact pointsOk_endSpot (pointsOk_releaseConverter h) _ _ _ _
  · exact h

/-! The requests that touch points (R50, R54, R69, R93) -/

theorem pointsOk_abortSpotOn (p : PointId) : (abortSpotOn p s).PointsOk := by
  unfold abortSpotOn
  split
  · exact pointsOk_setBusy (pointsOk_orderSpotEnd h _) p false
  · exact h

theorem pointsOk_applyConfigPoint (hd : Held) (p : PointId) {cfg : Settings} (hc : cfg.InRange) :
    (applyConfigPoint hd p cfg s).PointsOk :=
  have ha := pointsOk_abortSpotOn h p
  pointsOk_updatePoint ha p (ok_configure (ha p) hc)

theorem pointsOk_applyReleasePoint (hd : Held) (p : PointId) : (applyReleasePoint hd p s).PointsOk :=
  have ha := pointsOk_abortSpotOn h p
  pointsOk_updatePoint ha p (ok_release (ha p))

theorem pointsOk_mapSet (set : PointSet) {f : Point → Point} (hf : ∀ {pt : Point}, pt.Ok → (f pt).Ok) {t : State}
    (e : t.eng.points = mapSet set f s.eng.points) : t.PointsOk := fun p => by
  have ht : t.point p = if inSet set p then f (s.point p) else s.point p := by simp [State.point, e, mapSet]
  rw [ht]
  split
  · exact hf (h p)
  · exact h p

omit h in
/-- The walker's checks hold a CONFIG_POINT's settings in their ranges (R49). -/
theorem parsed_settings_inRange {b : Vector Word 16} {p : PointId} {cfg : Settings} (hp : parse b = .ok (.configPoint p cfg)) :
    cfg.InRange := by
  obtain ⟨-, -, -, reads⟩ := parse_reads b
  obtain ⟨⟨kind, -⟩, -⟩ := reads _ hp
  have read := parse_eq_ok.1 hp
  simp only [contentOf, kind, Option.some.injEq] at read
  exact configPointOf_inRange read

theorem pointsOk_applyBoundary {hd : Held} {r : Request} (hp : parse hd.block = .ok r) : (applyBoundary hd r s).PointsOk := by
  cases r with
  | configPoint p cfg => exact pointsOk_applyConfigPoint h hd p (parsed_settings_inRange hp)
  | releasePoint p => exact pointsOk_applyReleasePoint h hd p
  | recalibrate set => exact pointsOk_mapSet h set ok_armRecal (by simp [applyBoundary, applyRecalibrate])
  | reseed set => exact pointsOk_mapSet h set ok_armReseed (by simp [applyBoundary, applyReseed])
  | configGroup i g => exact pointsOk_of_eq h (by simp [applyBoundary])
  | setTiming t => exact pointsOk_of_eq h (by simp [applyBoundary])
  | snapshot buffer set => exact pointsOk_of_eq h (by simp [applyBoundary])
  | mark tag => exact pointsOk_of_eq h (by simp [applyBoundary])
  | _ => exact h

theorem pointsOk_applyWaiting : (applyWaiting s).PointsOk := by
  unfold applyWaiting
  split
  · rename_i hd r found
    obtain ⟨-, hp, -⟩ := State.awaits_of_found found
    exact pointsOk_applyBoundary h hp
  · exact h

theorem pointsOk_applyReached : (applyReached s).PointsOk := by
  unfold applyReached
  split
  · exact pointsOk_applyWaiting h
  · exact h

theorem pointsOk_reachEngine : (reachEngine s).PointsOk := by
  unfold reachEngine
  split
  · exact pointsOk_applyWaiting h
  · exact h

theorem pointsOk_applySpot (hd : Held) (p : PointId) (m : Nat) : (applySpot hd p m s).PointsOk := by
  have refused (code : ResultCode) : (answer hd (Answer.refused code) s).PointsOk := pointsOk_of_eq h (by simp)
  unfold applySpot
  split
  · exact refused _
  split
  · exact refused _
  · exact refused _
  · split
    · exact pointsOk_acceptSpot h hd p m
    · exact pointsOk_orderSpotEnd (s := s.walkTo (.workingSpot hd)) h _

/-! The slots of a frame (R42, R67, R118) -/

theorem pointsOk_startSlot (p : PointId) : (startSlot p s).PointsOk := by
  unfold startSlot
  dsimp only
  refine pointsOk_requestScan ?_ p
  split
  · exact pointsOk_updatePoint h p (ok_takeRecal (h p))
  · exact h

theorem pointsOk_runSlots : ∀ ps : List PointId, (runSlots ps s).PointsOk
  | [] => h
  | p :: ps => by
    unfold runSlots
    split
    · exact pointsOk_startSlot h p
    · exact pointsOk_runSlots ps

theorem pointsOk_measurePoint (p : PointId) (c : Half) : (measurePoint p c s).PointsOk := by
  unfold measurePoint
  dsimp only
  exact pointsOk_of_eq (pointsOk_updatePoint h p (ok_measure (h p) p (groupView s.eng.points s.eng.groups p) c)) (by simp)

end

/-! Frames and expiries (R113 to R123) -/

theorem judge_points (e : ScanEngine) : e.judge.points = e.points := by
  unfold ScanEngine.judge
  (repeat' split) <;> rfl

theorem expiredInFrame_points (e : ScanEngine) : e.expiredInFrame.points = e.points := by
  unfold ScanEngine.expiredInFrame
  split <;> rfl

theorem expiriesInFrame_points : ∀ (n : Nat) (s : State), (expiriesInFrame n s).eng.points = s.eng.points
  | 0, _ => rfl
  | n + 1, s => by
    unfold expiriesInFrame
    split
    · rfl
    · rw [expiriesInFrame_points n, State.setEng_eng, expiredInFrame_points]

theorem leaveScanning_points (x : EndExpiries) (s : State) : (leaveScanning x s).eng.points = s.eng.points := by
  simp [leaveScanning, expiriesCounted, addMerged, expiriesInFrame_points, judge_points]

theorem leaveCut_points (s : State) : (leaveCut s).eng.points = s.eng.points := by simp [leaveCut]

section
variable {s : State} (h : s.PointsOk)
include h

theorem pointsOk_admissionCheck : (admissionCheck s).PointsOk := by
  have asked := askRoom_keeps s s.eng.reservation
  unfold admissionCheck
  generalize askRoom s.eng.reservation s = answer at asked ⊢
  obtain ⟨room, t⟩ := answer
  obtain ⟨-, -, (eng : t.eng = s.eng), -⟩ := asked
  cases room
  · exact pointsOk_of_eq h (by simp [skipFrame, eng])
  · exact pointsOk_runSlots (pointsOk_of_eq h (by simp [enterFrame, eng])) _

theorem pointsOk_endFrame : (endFrame s).PointsOk := pointsOk_applyWaiting (pointsOk_of_eq h (leaveScanning_points _ s))

theorem pointsOk_finishPlain : (finishPlain s).PointsOk := by
  have ends := pointsOk_endFrame h
  have admits := pointsOk_admissionCheck
    (s := (endFrame s).setEng { (endFrame s).eng with startPending := false }) ends
  unfold finishPlain
  dsimp only
  split
  · split
    · split
      · exact pointsOk_endFrame admits
      · exact admits
    · exact ends
  · exact h

/-- An expiry keeps the table sound if the end of the frame it may admit does. -/
theorem pointsOk_expire {finish : List EndExpiries → State → List EndExpiries × State}
    (hf : ∀ (l : List EndExpiries) (x : State), x.PointsOk → (finish l x).2.PointsOk) (ends : List EndExpiries) :
    (expire finish ends s).2.PointsOk := by
  unfold expire
  split
  · exact h
  · split
    · exact hf _ _ (pointsOk_admissionCheck (s := s.setEng s.eng.restarted) h)
    · exact pointsOk_of_eq h (expiredInFrame_points _)
    · exact h
    · exact h

end

theorem pointsOk_expireTimes {finish : List EndExpiries → State → List EndExpiries × State}
    (hf : ∀ (l : List EndExpiries) (x : State), x.PointsOk → (finish l x).2.PointsOk) :
    ∀ (n : Nat) {s : State} (_ : s.PointsOk) (ends : List EndExpiries), (expireTimes finish n ends s).2.PointsOk
  | 0, _, h, _ => h
  | n + 1, _, h, ends => pointsOk_expireTimes hf n (pointsOk_expire h hf ends) _

theorem pointsOk_finishFrame : ∀ (n : Nat) (ends : List EndExpiries) (s : State), s.PointsOk → (finishFrame n ends s).2.PointsOk
  | 0, _, _, h => pointsOk_finishPlain h
  | _ + 1, [], _, h => pointsOk_finishPlain h
  | n + 1, x :: xs, s, h => by
    have hf := pointsOk_finishFrame n
    have reached := pointsOk_applyReached (pointsOk_of_eq h (leaveScanning_points x s))
    unfold finishFrame
    dsimp only
    split
    · have expired := pointsOk_expireTimes hf x.unreached reached xs
      generalize expireTimes (finishFrame n) x.unreached xs _ = r at expired ⊢
      have left := pointsOk_expireTimes hf x.left (pointsOk_reachEngine expired) r.1
      generalize expireTimes (finishFrame n) x.left r.1 _ = r' at left ⊢
      split
      · exact hf _ _ (pointsOk_admissionCheck (s := r'.2.setEng { r'.2.eng with startPending := false }) left)
      · exact left
    · exact h

section
variable {s : State} (h : s.PointsOk)
include h

theorem pointsOk_frameExpiry (ends : List EndExpiries) : (frameExpiry ends s).PointsOk :=
  pointsOk_expire h (fun l x => pointsOk_finishFrame _ l x) ends

theorem pointsOk_cutEnd : (cutEnd s).PointsOk := pointsOk_applyWaiting (pointsOk_of_eq h (leaveCut_points s))

theorem pointsOk_scanConversion (c : Half) (ends : List EndExpiries) : (scanConversion c ends s).PointsOk := by
  unfold scanConversion
  dsimp only
  split
  · rename_i p _ _
    have released := pointsOk_releaseConverter (pointsOk_measurePoint h p c)
    split
    · exact pointsOk_finishFrame _ _ _ (pointsOk_runSlots released _)
    · exact pointsOk_cutEnd released
    · exact released
    · exact released
  · exact h

omit h in
theorem pointsOk_scanEvent {f : State → State} (hf : f s.eventBegun |>.PointsOk) : (scanEvent f s).PointsOk :=
  pointsOk_of_eq hf (by simp)

/-! The stop order, resets and memory faults (R123, R172, R176, R12) -/

theorem pointsOk_stopScan : (stopScan s).PointsOk := by
  have cut := pointsOk_cutEnd (s := withdrawScan (s.setEng { s.eng with frameTimer := none })) h
  unfold stopScan
  dsimp only
  split
  · exact h
  · split
    · exact h
    · exact cut
    · exact cut
  · exact h
  · exact h

theorem pointsOk_stopOrder : (stopOrder s).PointsOk :=
  pointsOk_of_eq (pointsOk_orderSpotEnd (pointsOk_stopScan
    (s := s.setCtl { s.ctl with op := .stopping, run := false, refusedWrite := false }) h) .aborted) (by simp [stopOrder])

theorem pointsOk_changeRun : (changeRun s).PointsOk := by
  unfold changeRun
  split
  · exact pointsOk_of_eq h (by simp)
  · exact pointsOk_stopOrder h
  · exact pointsOk_of_eq h (by simp [resumeRunning])
  all_goals exact h

omit h in
theorem pointsOk_reset : State.reset.PointsOk := fun p => by
  have e : State.reset.point p = Point.reset := by simp [State.point, State.reset, ScanEngine.reset]
  rw [e]
  simp [Point.Ok, Point.reset, Settings.InRange, Settings.reset, Point.DebounceOk]

omit h in
theorem pointsOk_resetUnits (t : State) : (resetUnits t).PointsOk := pointsOk_of_eq pointsOk_reset rfl

theorem pointsOk_controlWrite (data : Word) : (controlWrite data s).PointsOk := by
  unfold controlWrite
  split
  · exact h
  split
  · exact pointsOk_of_eq (pointsOk_resetUnits s) rfl
  split
  · exact pointsOk_of_eq h (by simp)
  · exact pointsOk_of_eq (pointsOk_changeRun h) (by simp)

theorem pointsOk_memoryFault (kind : FaultKind) (cause : Cause) : (memoryFault kind cause s).PointsOk := by
  unfold memoryFault
  split
  · exact h
  · exact pointsOk_of_eq h (by simp [faultUnits])

theorem pointsOk_carryOut (e : ScanEvent) : (carryOut e s).PointsOk := by
  cases e with
  | scanConversion c ends => exact pointsOk_scanEvent (pointsOk_scanConversion (s := s.eventBegun) h c ends)
  | frameExpiry ends => exact pointsOk_scanEvent (pointsOk_frameExpiry (s := s.eventBegun) h ends)
  | boundary =>
    rw [carryOut]
    split
    · exact pointsOk_applyWaiting h
    · exact h
  | stopOrder =>
    rw [carryOut]
    split
    · exact pointsOk_stopOrder h
    · exact h

theorem pointsOk_racedFault (kind : FaultKind) (cause : Cause) (race : Option FaultRace) :
    (racedFault kind cause race s).PointsOk := by
  unfold racedFault
  split
  · exact h
  · exact pointsOk_memoryFault h _ _
  · rename_i r _
    have carried := pointsOk_carryOut (s := s.setOut { s.out with entryAfter := some r.taken }) h r.event
    exact pointsOk_memoryFault (pointsOk_of_eq (t := beforeFault r s) carried rfl) _ _

end

theorem receiveTogether_eng (n : Nat) (s : State) : (receiveTogether n s).eng = s.eng := rfl

/-! The walker's accesses and the other agents' writes (R24 to R26, R133, R152, R156, R5) -/

theorem headerRead_points (half : Vector Word 8) (s : State) : (headerRead half s).eng.points = s.eng.points := by
  unfold headerRead
  split
  · split <;> simp [enterRunning]
  · rfl

theorem linkRead_points (link : Word) (s : State) : (linkRead link s).eng.points = s.eng.points := by
  unfold linkRead
  (repeat' split) <;> simp

theorem blockRead_points (block : Vector Word 16) (s : State) : (blockRead block s).eng.points = s.eng.points := by
  unfold blockRead
  (repeat' split) <;> simp

theorem takenWritten_points (s : State) : (takenWritten s).eng.points = s.eng.points := by
  unfold takenWritten
  (repeat' split) <;> simp

theorem resultWritten_points (s : State) : (resultWritten s).eng.points = s.eng.points := by
  unfold resultWritten
  (repeat' split) <;> simp

theorem closedWritten_points (s : State) : (closedWritten s).eng.points = s.eng.points := by
  unfold closedWritten
  (repeat' split) <;> simp

theorem snapshotWritten_points (s : State) : (snapshotWritten s).eng.points = s.eng.points := by
  unfold snapshotWritten
  dsimp only
  (repeat' split) <;> simp

theorem journalWritten_points (s : State) : (journalWritten s).eng.points = s.eng.points := by
  unfold journalWritten
  dsimp only
  (repeat' split) <;> simp

theorem mirrorWritten_points (s : State) : (mirrorWritten s).eng.points = s.eng.points := by
  unfold mirrorWritten
  split <;> simp

/-- The CLOSED write of a spot lets a waiting SPOT in (R152, R153). -/
theorem pointsOk_spotWritten {s : State} (h : s.PointsOk) : (spotWritten s).PointsOk := by
  have next : (nextSpotWrite (retire s)).PointsOk := pointsOk_of_eq h (by simp)
  unfold spotWritten
  dsimp only
  split
  · split
    · refine pointsOk_of_eq ?_ (congrArg ScanEngine.points (receiveTogether_eng _ _))
      split
      · unfold spotClosed
        split
        · exact pointsOk_acceptWaitingSpot (pointsOk_of_eq next (by simp))
        · exact next
      · exact next
    · exact h
  · exact h

/-! ### Every step keeps the point table sound -/

section
variable {s : State} (h : s.PointsOk)
include h

theorem pointsOk_workingStep {f : Held → Request → Option State} (hf : ∀ hd r t, f hd r = some t → t.PointsOk) :
    (workingStep f s).PointsOk :=
  workingStep_ind (P := State.PointsOk) h (fun _ _ ht => pointsOk_of_eq ht (by simp)) fun hd r t _ e => hf hd r t e

/-- A boundary kind's command carries out the request that the walker holds, and nothing else. -/
theorem pointsOk_boundaryStep {f : Held → Request → Option State} (hf : ∀ hd r t, f hd r = some t → applyBoundary hd r s = t) :
    (boundaryStep f s).PointsOk :=
  boundaryStep_ind (P := State.PointsOk) h (fun _ _ ht => pointsOk_of_eq ht (by simp)) (fun _ => h)
    fun hd r t _ ⟨_, hp, _⟩ e => hf hd r t e ▸ pointsOk_applyBoundary h hp

theorem exec_pointsOk (c : Instr) : ∃ t, exec c s = .next t ∧ t.PointsOk := by
  cases c
  case hardwareReset low => exact ⟨_, rfl, pointsOk_of_eq (pointsOk_resetUnits s) rfl⟩
  case softwareReset data | runSet data | runClear data | resume data | look data | acceptedControlWrite data =>
    exact ⟨_, rfl, pointsOk_controlWrite h data⟩
  case areaBaseWrite data =>
    refine ⟨_, rfl, pointsOk_of_eq h ?_⟩
    unfold areaBaseWrite
    (repeat' split) <;> rfl
  case attnEnableWrite data =>
    refine ⟨_, rfl, pointsOk_of_eq h ?_⟩
    unfold attnEnableWrite
    split <;> rfl
  case attentionRead =>
    refine ⟨_, rfl, pointsOk_of_eq h ?_⟩
    unfold attentionRead
    split <;> rfl
  case serviceWrite data =>
    refine ⟨_, rfl, pointsOk_of_eq h ?_⟩
    unfold serviceWrite
    (repeat' split) <;> rfl
  case ignoredRegisterWrite | lateResponse | resetnRise => exact ⟨_, rfl, h⟩
  case headerReadComplete half => exact ⟨_, rfl, pointsOk_of_eq h (headerRead_points half s)⟩
  case errorResponse race | responseLimitExpiry race => exact ⟨_, rfl, pointsOk_racedFault h _ _ race⟩
  case linkReadComplete link => exact ⟨_, rfl, pointsOk_of_eq h (linkRead_points link s)⟩
  case blockReadComplete block => exact ⟨_, rfl, pointsOk_of_eq h (blockRead_points block s)⟩
  case takenWriteComplete => exact ⟨_, rfl, pointsOk_of_eq h (takenWritten_points s)⟩
  case resultWriteComplete => exact ⟨_, rfl, pointsOk_of_eq h (resultWritten_points s)⟩
  case closedWriteComplete => exact ⟨_, rfl, pointsOk_of_eq h (closedWritten_points s)⟩
  case configOutput | setOutputs | givePages | reclaimPages | flushJournal =>
    refine ⟨_, rfl, pointsOk_workingStep h fun hd r t e => ?_⟩
    split at e <;> cases e
    exact pointsOk_of_eq h (by simp)
  case spot =>
    refine ⟨_, rfl, pointsOk_workingStep h fun hd r t e => ?_⟩
    split at e <;> cases e
    exact pointsOk_applySpot h hd _ _
  case configPoint | releasePoint | configGroup | setTiming | recalibrate | reseed | snapshot | mark =>
    refine ⟨_, rfl, pointsOk_boundaryStep h fun hd r t e => ?_⟩
    split at e <;> cases e
    rfl
  case frameTimerExpiry ends => exact ⟨_, rfl, pointsOk_scanEvent (pointsOk_frameExpiry (s := s.eventBegun) h ends)⟩
  case scanConversionComplete count ends =>
    exact ⟨_, rfl, pointsOk_scanEvent (pointsOk_scanConversion (s := s.eventBegun) h count ends)⟩
  case spotSubconversionComplete count => exact ⟨_, rfl, pointsOk_of_eq (pointsOk_spotConversion h count) (by simp)⟩
  case spotWriteComplete => exact ⟨_, rfl, pointsOk_spotWritten h⟩
  case snapshotRecordWriteComplete => exact ⟨_, rfl, pointsOk_of_eq h (snapshotWritten_points s)⟩
  case journalWriteComplete => exact ⟨_, rfl, pointsOk_of_eq h (journalWritten_points s)⟩
  case lingerExpiry => exact ⟨_, rfl, pointsOk_of_eq h (by simp)⟩
  case mirrorWriteComplete => exact ⟨_, rfl, pointsOk_of_eq h (mirrorWritten_points s)⟩
  case enterStopped => exact ⟨_, rfl, pointsOk_of_eq h (by simp)⟩

end

/-- Settles O56: an empty queue idles, and every command keeps the table sound, whatever the queue's rest. -/
theorem pointsStayInRange : Obligations.PointsStayInRange := by
  intro s t h e
  unfold step at e
  split at e
  · cases e
    exact h
  · rename_i c rest _
    obtain ⟨u, hu, ok⟩ := exec_pointsOk (s := s.setPending rest) h c
    rw [hu] at e
    cases e
    exact ok

/-! ### A held spot ordered to end, by the spot unit's state (R53) -/

section
variable {s : State} {k : SpotHeld} (code : ResultCode)

theorem orderSpotEnd_queued_spt (h : s.spt.state = .queued k) : (orderSpotEnd code s).spt = { s.spt with
    state := .closing k code
    writes := s.spt.writes ++
      [{ kind := .result, addr := k.addr + 8, data := [ofHalves k.tag code.code, 0] },
       { kind := .closed, addr := k.addr + 4, data := [ofBytes 4 14 k.flags 0] }] } := by
  rw [RequestChain.orderSpotEnd_queued code h, RequestChain.endSpot_spt]
  rfl

theorem orderSpotEnd_queued_arb (h : s.spt.state = .queued k) :
    (orderSpotEnd code s).arb = { s.arb with spotWaits := false } := by
  rw [RequestChain.orderSpotEnd_queued code h]
  simp [withdrawSpot]

theorem orderSpotEnd_queued_point (h : s.spt.state = .queued k) (q : PointId) :
    (orderSpotEnd code s).point q = if q = k.point then { s.point q with spotBusy := false } else s.point q := by
  rw [RequestChain.orderSpotEnd_queued code h, RequestChain.endSpot_point]
  split
  · rename_i e
    rw [e, RequestChain.setBusy_point_same]
    rfl
  · rename_i e
    exact RequestChain.setBusy_point_other _ e _

/-- A spot that is not QUEUED keeps its mark until it ends. -/
theorem orderSpotEnd_point_of_not_queued (h : ∀ k, s.spt.state ≠ .queued k) (q : PointId) :
    (orderSpotEnd code s).point q = s.point q := by
  unfold orderSpotEnd
  split
  case h_2 k hk => exact absurd hk (h k)
  all_goals rfl

end

/-! ### The spot on a point that a request takes over (R50 step 1, R54 step 1) -/

section
variable {s : State} {p : PointId}

theorem abortSpotOn_free (h : (s.point p).spotBusy = false) : abortSpotOn p s = s := by
  simp [abortSpotOn, h]

theorem abortSpotOn_busy (h : (s.point p).spotBusy = true) :
    abortSpotOn p s = (orderSpotEnd .aborted s).setBusy p false :=
  if_pos h

theorem abortSpotOn_eng (s : State) (p : PointId) :
    (abortSpotOn p s).eng = { s.eng with points := (abortSpotOn p s).eng.points } := by
  cases h : (s.point p).spotBusy
  · rw [abortSpotOn_free h]
  · rw [abortSpotOn_busy h, State.setBusy, State.setPoint_eng, RequestChain.orderSpotEnd_eng]

end

section
variable (s : State) (p : PointId) (x : Point)

/-- The record that a request puts in place of a point's is reported when it changes the point's state (R43). -/
theorem updateAborted_out : ((abortSpotOn p s).updatePoint p x).out =
    (if x.state = (s.point p).state then s.out else s.out.report p x.state) := by
  rw [State.updatePoint_out, abortSpotOn_point]
  simp

theorem updateAborted_eng : ((abortSpotOn p s).updatePoint p x).eng =
    { s.eng with points := ((abortSpotOn p s).updatePoint p x).eng.points } := by
  rw [State.updatePoint_eng, abortSpotOn_eng]

theorem updateAborted_view (hn : s.out.entryAfter = none) (hv : s.out.view[p] = (s.point p).state) :
    ((abortSpotOn p s).updatePoint p x).out.view[p] = x.state :=
  State.updatePoint_view _ p x (by simpa using hn) (by rw [abortSpotOn_point]; simpa using hv)

end

/-! ### CONFIG_POINT and RELEASE_POINT applied (R50, R54) -/

/-- The record after CONFIG_POINT, item by item: a point with a calibration mode starts its procedure, and one without is IDLE
with its seed pending (R50, R66, R58). -/
theorem configure_eq (pt : Point) (cfg : Settings) : pt.configure cfg = { pt with
    cfg := cfg, tuning := cfg.gains, armedReseed := false, armedRecal := false, faultCause := .none
    debounce := 0, stuck := 0, lastRawDelta := 0, lastDelta := 0
    seedPending := decide (cfg.calMode = .none)
    state := (if cfg.calMode = .none then .idle else .calibrating)
    calPhase := (match cfg.calMode with
      | .none => .none
      | .offset => .offset
      | .full => .coarse)
    calStep := (match cfg.calMode with
      | .none => 0
      | .offset => 9
      | .full => 3) } := by
  unfold Point.configure
  cases h : cfg.calMode <;>
    simp [Point.startCalibration, Settings.startPhase, Settings.startStep, Settings.fullProcedure, h]

theorem answer_done_port (h : Held) (s : State) : (answer h (Answer.done 0) s).port =
    s.port ++ [{ kind := .resultWrite, addr := h.addr + 8, data := [ofHalves (blockHalf h.block 8) 0, 0] }] := rfl

theorem exec_configPoint {s : State} {h : Held} {p : PointId} {cfg : Settings} (hb : s.betweenFrames = true)
    (hw : s.Awaits h (.configPoint p cfg)) :
    exec .configPoint s = .next (receiveTogether s.port.length (applyConfigPoint h p cfg s)) :=
  exec_boundary hb hw rfl

theorem exec_releasePoint {s : State} {h : Held} {p : PointId} (hb : s.betweenFrames = true)
    (hw : s.Awaits h (.releasePoint p)) :
    exec .releasePoint s = .next (receiveTogether s.port.length (applyReleasePoint h p s)) :=
  exec_boundary hb hw rfl

theorem receiveTogether_out (n : Nat) (s : State) : (receiveTogether n s).out = s.out := rfl

section
variable (h : Held) (p : PointId) (cfg : Settings) (s : State)

theorem applyConfigPoint_point (q : PointId) : (applyConfigPoint h p cfg s).point q =
    ((abortSpotOn p s).updatePoint p (((abortSpotOn p s).point p).configure cfg)).point q :=
  answer_point _ _ _ _

theorem applyConfigPoint_out : (applyConfigPoint h p cfg s).out =
    ((abortSpotOn p s).updatePoint p (((abortSpotOn p s).point p).configure cfg)).out := by
  simp [applyConfigPoint]

end

/-- With no spot on the point the request issues its answer alone, so no order of receipt is open. -/
theorem receive_applyConfigPoint (h : Held) {p : PointId} (cfg : Settings) {s : State} (hf : (s.point p).spotBusy = false) :
    receiveTogether s.port.length (applyConfigPoint h p cfg s) = applyConfigPoint h p cfg s :=
  receiveTogether_answer _ _ (by simp [abortSpotOn_free hf])

/-- Settles O26: the record by `configure_eq`, the report by that of the state, and with no spot on the point the rest by the
update alone. -/
theorem configPointApplied : Obligations.ConfigPointApplied := by
  intro s h p cfg hb hw
  have record : (receiveTogether s.port.length (applyConfigPoint h p cfg s)).point p =
      ((abortSpotOn p s).point p).configure cfg := by
    rw [receiveTogether_point, applyConfigPoint_point, State.updatePoint_point]
  refine ⟨_, exec_configPoint hb hw, ?_, fun hn hv => ?_, ?_, ?_, by simp, by simp, by simp, by simp, by simp, ?_, fun hf => ?_⟩
  · exact (record.trans (congrArg (·.configure cfg) (abortSpotOn_point s p))).trans (configure_eq _ cfg)
  · rw [record, receiveTogether_out, applyConfigPoint_out]
    exact updateAborted_view s p _ hn hv
  · rw [record, receiveTogether_out, applyConfigPoint_out]
    exact updateAborted_out s p _
  · simp only [receiveTogether_keeps, applyConfigPoint, answer_keeps]
    exact updateAborted_eng s p _
  · simp [applyConfigPoint, answer, State.walkTo, Answer.done]
  · rw [receive_applyConfigPoint h cfg hf]
    refine ⟨?_, ?_, fun q hq => ?_, ?_, by simp⟩
    · simp [applyConfigPoint, abortSpotOn_free hf]
    · simp [applyConfigPoint, abortSpotOn_free hf]
    · rw [applyConfigPoint_point, State.updatePoint_other _ hq, abortSpotOn_free hf]
    · rw [applyConfigPoint, answer_done_port]
      simp [abortSpotOn_free hf]

/-- A group's record without a point: its reference goes if it is that point, the rest stays (R54 step 5). -/
theorem without_keeps (g : Group) (p : PointId) :
    (inSet g.members p = true → g.reference = some p → (g.without p).reference = none) ∧
    (g.reference ≠ some p → (g.without p).reference = g.reference) ∧
    (g.without p).weight = g.weight ∧ (g.without p).halt = g.halt := by
  unfold Group.without
  split
  · refine ⟨fun _ hr => if_pos hr, fun hr => if_neg hr, rfl, rfl⟩
  · rename_i hm
    exact ⟨fun h => absurd h hm, fun _ => rfl, rfl, rfl⟩

section
variable (h : Held) (p : PointId) (s : State)

theorem applyReleasePoint_group (i : Fin 4) : (applyReleasePoint h p s).eng.groups[i] = (s.eng.groups[i]).without p := by
  simp [applyReleasePoint]

theorem applyReleasePoint_point (q : PointId) : (applyReleasePoint h p s).point q =
    ((abortSpotOn p s).updatePoint p ((abortSpotOn p s).point p).release).point q := by
  simp [applyReleasePoint, State.point]

theorem applyReleasePoint_out : (applyReleasePoint h p s).out =
    ((abortSpotOn p s).updatePoint p ((abortSpotOn p s).point p).release).out := by
  simp [applyReleasePoint]

end

/-- With no spot on the point the request issues its answer alone, so no order of receipt is open. -/
theorem receive_applyReleasePoint (h : Held) {p : PointId} {s : State} (hf : (s.point p).spotBusy = false) :
    receiveTogether s.port.length (applyReleasePoint h p s) = applyReleasePoint h p s :=
  receiveTogether_answer _ _ (by simp [abortSpotOn_free hf])

/-- Settles O27: the record and its report as for CONFIG_POINT, and each group by `without_keeps`. -/
theorem releasePointApplied : Obligations.ReleasePointApplied := by
  intro s h p hb hw
  have group (i : Fin 4) : (receiveTogether s.port.length (applyReleasePoint h p s)).eng.groups[i] = (s.eng.groups[i]).without p := by
    rw [receiveTogether_eng, applyReleasePoint_group]
  refine ⟨_, exec_releasePoint hb hw, ?_, fun hn hv => ?_, ?_, ?_, fun i q => ?_, fun i hm hr => ?_, fun i hr => ?_, fun i => ?_,
    by simp, by simp, by simp, by simp, by simp, ?_, fun hf => ?_⟩
  · rw [receiveTogether_point, applyReleasePoint_point, State.updatePoint_point, abortSpotOn_point]
    rfl
  · rw [receiveTogether_out, applyReleasePoint_out]
    exact updateAborted_view s p _ hn hv
  · rw [receiveTogether_out, applyReleasePoint_out]
    exact (updateAborted_out s p _).trans (ite_congr (propext eq_comm) (fun _ => rfl) fun _ => rfl)
  · have eng := updateAborted_eng s p ((abortSpotOn p s).point p).release
    simp only [receiveTogether_keeps, applyReleasePoint, answer_keeps, State.setEng_eng]
    rw [eng]
  · rw [group]
    exact Group.without_members _ _ _
  · obtain ⟨cleared, -⟩ := without_keeps s.eng.groups[i] p
    rw [group, cleared hm hr]
  · obtain ⟨-, kept, -⟩ := without_keeps s.eng.groups[i] p
    rw [group, kept hr]
  · obtain ⟨-, -, kept⟩ := without_keeps s.eng.groups[i] p
    rw [group]
    exact kept
  · simp [applyReleasePoint, answer, State.walkTo, Answer.done]
  · rw [receive_applyReleasePoint h hf]
    refine ⟨?_, ?_, fun q hq => ?_, ?_, by simp⟩
    · simp [applyReleasePoint, abortSpotOn_free hf]
    · simp [applyReleasePoint, abortSpotOn_free hf]
    · rw [applyReleasePoint_point, State.updatePoint_other _ hq, abortSpotOn_free hf]
    · rw [applyReleasePoint, answer_done_port]
      simp [abortSpotOn_free hf]

/-! ### The orders that end a spot (R53, R154) -/

/-- With no frame in progress the scan engine's part of the stop order parks it, and no point is touched (R123). -/
theorem stopScan_waiting {s : State} (h : s.eng.frameState = .waiting) :
    stopScan s = s.setEng { s.eng with frameTimer := none, frameState := .parked } :=
  (stopScan_stops s).1 h

/-- A CONTROL write that clears RUN in RUNNING is the stop order (R178 step 2, R172). -/
theorem controlWrite_stops {data : Word} {s : State} (hh : s.ctl.resetHeld = false) (hr : Control.reset data = false)
    (hc : Control.run data = false) (hrun : s.ctl.run = true) (ho : s.ctl.op = .running) :
    controlWrite data s = receiveTogether s.port.length (stopOrder s) := by
  simp [controlWrite, changeRun, hh, hr, hc, hrun, ho]

/-- Between frames the stop order is the spot unit's order and the walker's, on the same spot, requests and points. -/
theorem stopOrder_waiting {s : State} (hw : s.eng.frameState = .waiting) : ∃ u : State,
    stopOrder s = stopWalker (orderSpotEnd .aborted u) ∧ u.spt = s.spt ∧ u.arb = s.arb ∧ ∀ q, u.point q = s.point q :=
  ⟨_, congrArg (fun x => stopWalker (orderSpotEnd .aborted x))
      (stopScan_waiting (s := s.setCtl { s.ctl with op := .stopping, run := false, refusedWrite := false }) hw),
    rfl, rfl, fun _ => rfl⟩

theorem stopWalker_point (s : State) (q : PointId) : (stopWalker s).point q = s.point q := by simp [State.point]

/-- What CONFIG_POINT and RELEASE_POINT do to the spot unit, the arbiter and the points is the end of the spot on their point,
but for that point's own record. -/
theorem exec_takesOver {s : State} {h : Held} {p : PointId} {c : Instr} (hb : s.betweenFrames = true)
    (hc : c = .releasePoint ∧ s.Awaits h (.releasePoint p) ∨ ∃ cfg, c = .configPoint ∧ s.Awaits h (.configPoint p cfg)) :
    ∃ t, exec c s = .next t ∧ (t.point p).spotBusy = false ∧ t.spt = (abortSpotOn p s).spt ∧ t.arb = (abortSpotOn p s).arb ∧
      ∀ q, q ≠ p → t.point q = (abortSpotOn p s).point q := by
  rcases hc with ⟨rfl, hw⟩ | ⟨cfg, rfl, hw⟩
  · refine ⟨_, exec_releasePoint hb hw, ?_, by simp [applyReleasePoint], by simp [applyReleasePoint], fun q hq => ?_⟩
    · rw [receiveTogether_point, applyReleasePoint_point, State.updatePoint_point, abortSpotOn_point]
      rfl
    · rw [receiveTogether_point, applyReleasePoint_point, State.updatePoint_other _ hq]
  · refine ⟨_, exec_configPoint hb hw, ?_, by simp [applyConfigPoint], by simp [applyConfigPoint], fun q hq => ?_⟩
    · rw [receiveTogether_point, applyConfigPoint_point, State.updatePoint_point, abortSpotOn_point, configure_eq]
    · rw [receiveTogether_point, applyConfigPoint_point, State.updatePoint_other _ hq]

/-- The end of the spot on a point is the order to it, but for the point's own mark. -/
theorem abortSpotOn_orders {s : State} {p : PointId} (h : (s.point p).spotBusy = true) :
    (abortSpotOn p s).spt = (orderSpotEnd .aborted s).spt ∧ (abortSpotOn p s).arb = (orderSpotEnd .aborted s).arb ∧
    ∀ q, q ≠ p → (abortSpotOn p s).point q = (orderSpotEnd .aborted s).point q := by
  rw [abortSpotOn_busy h]
  exact ⟨by simp, by simp, fun q hq => RequestChain.setBusy_point_other _ hq _⟩

/-- Settles O28: each order comes down to `orderSpotEnd`, which goes by the spot unit's state. -/
theorem ordersEndSpot : Obligations.OrdersEndSpot := by
  constructor
  · intro c data s hd hh hr hc hrun ho hw
    obtain ⟨u, order, spt, arb, point⟩ := stopOrder_waiting hw
    refine ⟨receiveTogether s.port.length (stopOrder s), by rw [exec_control s hd, controlWrite_stops hh hr hc hrun ho], ?_⟩
    simp only [receiveTogether_keeps, receiveTogether_point, order, stopWalker_keeps, stopWalker_point, ← spt, ← arb, ← point]
    refine ⟨fun k hk => ?_, orderSpotEnd_point_of_not_queued _, fun k sums hk => ?_, fun k sums code hk => ?_, fun k code hk => ?_,
      fun hk => ?_⟩
    · rw [orderSpotEnd_queued_spt _ hk, orderSpotEnd_queued_arb _ hk]
      exact ⟨rfl, rfl, orderSpotEnd_queued_point _ hk, rfl⟩
    · rw [RequestChain.orderSpotEnd_converting _ hk]
      exact ⟨rfl, rfl⟩
    · rw [RequestChain.orderSpotEnd_ordered _ hk]
      exact ⟨rfl, rfl⟩
    · rw [RequestChain.orderSpotEnd_closing _ hk]
    · rw [orderSpotEnd, hk]
  · intro s h p c hb hc busy
    obtain ⟨t, ht, mark, spt, arb, point⟩ := exec_takesOver hb hc
    obtain ⟨ospt, oarb, opoint⟩ := abortSpotOn_orders busy
    rw [ospt] at spt
    rw [oarb] at arb
    have others : ∀ q, q ≠ p → t.point q = (orderSpotEnd .aborted s).point q := fun q hq => (point q hq).trans (opoint q hq)
    refine ⟨t, ht, mark, fun hk q hq => ?_, fun k hk => ⟨?_, ?_, fun q hq => ?_, ?_⟩, fun k sums hk => ?_, fun k sums code hk => ?_,
      fun k code hk => ?_⟩
    · rw [others q hq, orderSpotEnd_point_of_not_queued _ hk]
    · rw [spt, orderSpotEnd_queued_spt _ hk]
    · rw [arb, orderSpotEnd_queued_arb _ hk]
    · rw [others q hq, orderSpotEnd_queued_point _ hk]
    · rw [spt, orderSpotEnd_queued_spt _ hk]
      rfl
    · rw [spt, arb, RequestChain.orderSpotEnd_converting _ hk]
      exact ⟨rfl, rfl⟩
    · rw [spt, arb, RequestChain.orderSpotEnd_ordered _ hk]
      exact ⟨rfl, rfl⟩
    · rw [spt, arb, RequestChain.orderSpotEnd_closing _ hk]
      exact ⟨rfl, rfl⟩

/-! ### A scan conversion completes (R42, R47) -/

/-- The work of a slot leaves the later slots as they were. -/
theorem slotDone_nextSlot {s d : State} {p q : PointId} {m : Measured} (h : s.SlotDone p m d) (hn : s.NextSlot p q) :
    d.NextSlot p q := by
  obtain ⟨-, others, -⟩ := h
  obtain ⟨hlt, converts, first⟩ := hn
  refine ⟨hlt, ?_, fun r hr hrq => ?_⟩
  · rw [others q (Fin.ne_of_gt hlt)]
    exact converts
  · rw [others r (Fin.ne_of_gt hr)]
    exact first r hr hrq

/-- With the last slot's work done and no slot in progress the frame is over. -/
theorem slotDone_frameDone {s d : State} {p : PointId} {m : Measured} (hf : s.eng.frameState = .scanning) (h : s.SlotDone p m d) :
    (d.setEng { d.eng with slot := none }).frameDone = true := by
  obtain ⟨-, -, eng, -⟩ := h
  rw [State.frameDone, State.setEng_eng, eng, hf]
  rfl

section
variable {s : State} {v : Conversion} {p : PointId} (hg : s.arb.grant = .scan v) (hs : s.eng.slot = some p) (c : Half)
  (ends : List EndExpiries)
include hg hs

/-- In a frame the next slot, or with none left the frame's end, follows the slot's work and the release of the converter. -/
theorem scanConversion_scanning (hf : s.eng.frameState = .scanning) : scanConversion c ends s =
    (finishFrame ends.length ends (runSlots (pointsAfter p) (releaseConverter (measurePoint p c s)))).2 := by
  rw [scanConversion, hg, hs]
  simp [hf]

/-- A frame with a slot in progress does not end. -/
theorem scanConversion_next {q : PointId} {m : Measured} (hf : s.eng.frameState = .scanning)
    (done : s.SlotDone p m (releaseConverter (measurePoint p c s))) (hn : s.NextSlot p q) :
    scanConversion c ends s = startSlot q (releaseConverter (measurePoint p c s)) := by
  obtain ⟨-, eng, -⟩ := startSlot_begins (releaseConverter (measurePoint p c s)) q
  have busy : (startSlot q (releaseConverter (measurePoint p c s))).frameDone = false := by
    rw [State.frameDone, eng]
    simp
  rw [scanConversion_scanning hg hs c ends hf, runSlots_next (slotDone_nextSlot done hn), finishFrame_notDone _ _ busy]

theorem scanConversion_last {m : Measured} (hf : s.eng.frameState = .scanning)
    (done : s.SlotDone p m (releaseConverter (measurePoint p c s)))
    (hn : ∀ r : PointId, p < r → (s.point r).slotConverts = false) :
    scanConversion c ends s = (finishFrame ends.length ends ((releaseConverter (measurePoint p c s)).setEng
      { (releaseConverter (measurePoint p c s)).eng with slot := none })).2 := by
  obtain ⟨-, others, -⟩ := done
  have idle : ∀ r ∈ pointsAfter p, ((releaseConverter (measurePoint p c s)).point r).slotConverts = false := fun r hr => by
    have later := mem_pointsAfter.1 hr
    rw [others r (Fin.ne_of_gt later)]
    exact hn r later
  rw [scanConversion_scanning hg hs c ends hf, runSlots_none idle]

theorem scanConversion_cutting (hf : s.eng.frameState = .cutting) :
    scanConversion c ends s = applyWaiting (leaveCut (releaseConverter (measurePoint p c s))) := by
  rw [scanConversion, hg, hs]
  simp [hf, cutEnd]

end

/-- A report taken leaves no entry to FAULTED before the unit where there was none (R166). -/
theorem report_entryAfter {o : OutputUnit} (h : o.entryAfter = none) (p : PointId) (st : PointState) :
    (o.report p st).entryAfter = none := by
  rw [OutputUnit.report_take h]
  exact h

/-- With the view following the table, the view of a point whose slot's work is done shows the point's new state, also behind
the begin of another point's slot (R43, R160). -/
theorem slot_view {s d x : State} {p q : PointId} {m : Measured} (done : s.SlotDone p m d) (begun : d.SlotBegun q x) (hpq : p ≠ q)
    (hn : s.out.entryAfter = none) (hv : s.out.view[p] = (s.point p).state) : x.out.view[p] = m.pt.state := by
  obtain ⟨-, -, -, dout, -⟩ := done
  obtain ⟨-, -, xout, -⟩ := begun
  have dview : d.out.entryAfter = none ∧ d.out.view[p] = m.pt.state := by
    rw [dout]
    split
    · rename_i e
      exact ⟨hn, hv.trans e.symm⟩
    · exact ⟨report_entryAfter hn _ _, by rw [OutputUnit.report_take hn, OutputUnit.take_view, if_pos rfl]⟩
  rw [xout]
  split
  · rw [OutputUnit.report_take dview.1, OutputUnit.take_view, if_neg hpq]
    exact dview.2
  · exact dview.2

section
variable {s d x : State} {p q : PointId} {m : Measured} (done : s.SlotDone p m d) (begun : d.SlotBegun q x)
include done begun

theorem slot_jrn_none (hr : m.record = none) : x.jrn = s.jrn := by
  obtain ⟨-, -, -, -, djrn, -⟩ := done
  obtain ⟨-, -, -, xjrn, -⟩ := begun
  rw [xjrn, djrn, hr]

theorem slot_recordSeq {r : Record} {page : OpenPage} (hr : m.record = some r) (hp : s.jrn.page = some page) :
    x.jrn.recordSeq = s.jrn.recordSeq + 1 := by
  obtain ⟨-, -, -, -, djrn, -⟩ := done
  obtain ⟨-, -, -, xjrn, -⟩ := begun
  rw [xjrn, djrn, hr, hp]
  rfl

end

theorem eventEnds_keeps {s x t : State} (h : s.EventEnds x t) : t.eng = x.eng ∧ t.out = x.out ∧ t.jrn = x.jrn := by
  rw [h.2]
  exact ⟨rfl, rfl, rfl⟩

/-- Settles O47: the slot's work, the release of the converter and the begin of the next slot, one after the other. -/
theorem scanConversionThenNextSlot : Obligations.ScanConversionThenNextSlot := by
  refine ⟨slotRules, journalLayouts, fun s v p q c ends m hg hw hs hf hn hm => ?_⟩
  subst hm
  have done := measurePoint_done (s := s.atEvent) p c hw
  have begun := startSlot_begins (releaseConverter (measurePoint p c s.atEvent)) q
  have ended := scanEvent_ends (scanConversion c ends) s
  rw [scanConversion_next (s := s.atEvent) hg hs c ends hf done hn] at ended
  generalize releaseConverter (measurePoint p c s.atEvent) = d at done begun ended
  generalize startSlot q d = x at begun ended
  obtain ⟨eng, out, jrn⟩ := eventEnds_keeps ended
  have point : ∀ r, (scanEvent (scanConversion c ends) s).point r = x.point r := fun r => by rw [State.point, eng, State.point]
  have hpq : p ≠ q := Fin.ne_of_lt hn.1
  have ⟨measured, others, _⟩ := done
  have ⟨kept, _⟩ := begun
  refine ⟨_, d, x, rfl, done, begun, ended, ?_, fun hn hv => ?_, fun r hrp hrq => ?_, fun hr => ?_, fun r hr hp => ?_⟩
  · rw [point, kept p hpq, measured]
    rfl
  · rw [out]
    exact slot_view done begun hpq hn (hv p)
  · rw [point, kept r hrq]
    exact others r hrp
  · rw [jrn]
    exact slot_jrn_none (s := s.atEvent) done begun hr
  · obtain ⟨page, hp⟩ := Option.ne_none_iff_exists'.1 hp
    rw [jrn]
    exact slot_recordSeq (s := s.atEvent) done begun hr hp

/-- Settles O48: the slot's work and the release of the converter, then the frame's end, or the cut frame's. -/
theorem scanConversionEndsFrame : Obligations.ScanConversionEndsFrame := by
  intro s v p c ends m hg hw hs hm
  subst hm
  have done := measurePoint_done (s := s.atEvent) p c hw
  have ended := scanEvent_ends (scanConversion c ends) s
  have frame : (scanEvent (scanConversion c ends) s).mem = s.mem ∧ (scanEvent (scanConversion c ends) s).ctl = s.ctl := by simp
  refine ⟨fun hf hn => ?_, fun hf => ?_⟩
  · rw [scanConversion_last (s := s.atEvent) hg hs c ends hf done hn] at ended
    have last := slotDone_frameDone (s := s.atEvent) hf done
    exact ⟨_, _, _, rfl, done, ⟨_, finishFrame_finishes _ ends _ last⟩, ended, frame⟩
  · rw [scanConversion_cutting (s := s.atEvent) hg hs c ends hf] at ended
    exact ⟨_, _, _, _, rfl, done, leaveCut_ends _, applyWaiting_applies (by simp [State.betweenFrames, leaveCut]), ended, frame⟩

end Sys2Proof.Machine.SensePoints
end

section
/-! SUPPORT. 04_calibration.md, proved: what RECALIBRATE and RESEED arm, what a search step decides and where it leads, and the
outcome of the verification. -/

namespace Sys2Proof.Machine.Calibration

/-! ### RECALIBRATE and RESEED applied (R69, R93) -/

/-- A RECALIBRATE arms a point in every state but DISABLED and CALIBRATING (R69). -/
theorem armRecal_eq (pt : Point) : pt.armRecal =
    if pt.state ≠ .disabled ∧ pt.state ≠ .calibrating then { pt with armedRecal := true } else pt := by
  unfold Point.armRecal
  cases hs : pt.state <;> simp [PointState.detecting]

/-- The states that detect are the four that a RESEED arms a point in (R73, R93). -/
theorem armReseed_eq (pt : Point) : pt.armReseed =
    if pt.state = .idle ∨ pt.state = .entering ∨ pt.state = .engaged ∨ pt.state = .leaving
      then { pt with armedReseed := true } else pt := by
  unfold Point.armReseed
  cases hs : pt.state <;> simp [PointState.detecting]

theorem mapSet_getElem (set : PointSet) (f : Point → Point) (points : Vector Point 32) (p : PointId) :
    (mapSet set f points)[p] = if inSet set p then f points[p] else points[p] := by
  simp [mapSet]

/-- A function that arms the points with a property arms the points of the set that have it. -/
theorem mapSet_arms {f : Point → Point} {arms : Prop} [Decidable arms] (set : PointSet) (points : Vector Point 32) (p : PointId)
    {armed : Point} (hf : f points[p] = if arms then armed else points[p]) :
    (mapSet set f points)[p] = if inSet set p = true ∧ arms then armed else points[p] := by
  rw [mapSet_getElem, hf]
  by_cases member : inSet set p = true
  · simp only [member, if_true, true_and]
  · simp only [member, false_and, if_false, Bool.false_eq_true]

/-- The points of a set with a mark, counted over the whole table. -/
theorem countMarked_eq (set : PointSet) (mark : Point → Bool) (points : Vector Point 32) :
    countMarked set mark points = ((List.finRange 32).filter fun p => inSet set p && mark points[p]).length := by
  rw [countMarked, pointsOf, List.filter_filter]
  simp only [Bool.and_comm]

section
variable {s : State} {h : Held} {set : PointSet} (hb : s.betweenFrames = true)
include hb

theorem exec_recalibrate (hw : s.Awaits h (.recalibrate set)) : exec .recalibrate s = .next (applyRecalibrate h set s) := by
  rw [exec_boundary hb hw rfl, applyBoundary, applyRecalibrate, receiveTogether_answer _ _ (by simp)]

theorem exec_reseed (hw : s.Awaits h (.reseed set)) : exec .reseed s = .next (applyReseed h set s) := by
  rw [exec_boundary hb hw rfl, applyBoundary, applyReseed, receiveTogether_answer _ _ (by simp)]

end

/-- Settles O30: the arming function on the points of the set, and the marks of the new table counted. -/
theorem armRequestsApplied : Obligations.ArmRequestsApplied := by
  intro s h set hb
  refine ⟨fun hw => ⟨mapSet set Point.armRecal s.eng.points, fun n hn => ?_, fun p => ?_⟩,
    fun hw => ⟨mapSet set Point.armReseed s.eng.points, fun n hn => ?_, fun p => ?_⟩⟩
  · rw [exec_recalibrate hb hw, hn, ← countMarked_eq set (·.armedRecal)]
    rfl
  · exact mapSet_arms set s.eng.points p (armRecal_eq _)
  · rw [exec_reseed hb hw, hn, ← countMarked_eq set (·.armedReseed)]
    rfl
  · exact mapSet_arms set s.eng.points p (armReseed_eq _)

/-! ### A slot's measurement of a calibrating point (R42, R60) -/

section
variable {pt : Point} (hs : pt.state = .calibrating) (p : PointId) (g : GroupView) (c : Half)
include hs

theorem measure_calibrating : measure p pt g c = calibrationStep p pt c := by
  rw [measure, hs]

theorem measure_search (hp : pt.calPhase = .coarse ∨ pt.calPhase = .fine ∨ pt.calPhase = .offset) :
    measure p pt g c = searchStep p pt c := by
  rw [measure_calibrating hs, calibrationStep]
  rcases hp with hp | hp | hp <;> rw [hp]

theorem measure_verify (hp : pt.calPhase = .verify) : measure p pt g c = verifyStep p pt c := by
  rw [measure_calibrating hs, calibrationStep, hp]

end

/-! ### The trial bit (R60) -/

/-- Clearing a bit leaves every other bit. -/
theorem getLsbD_withoutBit {w : Nat} (x : BitVec w) (i step : Nat) :
    (withoutBit x step).getLsbD i = (x.getLsbD i && decide (i ≠ step)) := by
  by_cases hi : i < w
  · have : (decide (i < step) || !decide (i - step = 0)) = decide (i ≠ step) := by
      rw [Bool.eq_iff_iff]
      simp
      omega
    simp [withoutBit, hi, this]
  · simp [withoutBit, BitVec.getLsbD_of_ge x i (by omega)]

/-- A search value once its trial bit is decided: the bit stays when the comparison asks for it (R60). -/
def decided {w : Nat} (keep : Bool) (x : BitVec w) (step : Nat) : BitVec w := if keep then x else withoutBit x step

theorem getLsbD_decided {w : Nat} (keep : Bool) (x : BitVec w) (i step : Nat) :
    (decided keep x step).getLsbD i = (x.getLsbD i && (decide (i ≠ step) || keep)) := by
  cases keep
  · simp [decided, getLsbD_withoutBit]
  · simp [decided]

@[simp] theorem decided_true {w : Nat} (x : BitVec w) (step : Nat) : decided true x step = x := rfl

@[simp] theorem getLsbD_decided_false {w : Nat} (x : BitVec w) (step : Nat) : (decided false x step).getLsbD step = false := by
  simp [getLsbD_decided]

section
variable (step target : Nat) (c : Half) (t : Tuning)

theorem decideBit_coarse : decideBit .coarse step target c t =
    { t with coarse := decided (decide (c.toNat ≤ target)) t.coarse step } := by
  by_cases h : c.toNat ≤ target <;> simp [decideBit, decided, h]

theorem decideBit_fine : decideBit .fine step target c t =
    { t with fine := decided (decide (c.toNat ≤ target)) t.fine step } := by
  by_cases h : c.toNat ≤ target <;> simp [decideBit, decided, h]

theorem decideBit_offset : decideBit .offset step target c t =
    { t with offset := decided (decide (target ≤ c.toNat)) t.offset step } := by
  by_cases h : target ≤ c.toNat <;> simp [decideBit, decided, h]

/-- A search touches no value but its own. -/
theorem decideBit_keeps (phase : CalPhase) :
    (phase ≠ .coarse → (decideBit phase step target c t).coarse = t.coarse) ∧
    (phase ≠ .fine → (decideBit phase step target c t).fine = t.fine) ∧
    (phase ≠ .offset → (decideBit phase step target c t).offset = t.offset) := by
  cases phase with
  | coarse => simp [decideBit_coarse]
  | fine => simp [decideBit_fine]
  | offset => simp [decideBit_offset]
  | verify => exact ⟨fun _ => rfl, fun _ => rfl, fun _ => rfl⟩
  | none => exact ⟨fun _ => rfl, fun _ => rfl, fun _ => rfl⟩

end

/-! ### The next position and the CAL_START record (R58, R64) -/

/-- Within a phase the step goes down by one (R58). -/
theorem nextStep_within (phase : CalPhase) {step : Nat} (h : step ≠ 0) :
    (nextStep phase step).1 = phase ∧ (nextStep phase step).2 + 1 = step := by
  obtain ⟨n, rfl⟩ := Nat.exists_eq_succ_of_ne_zero h
  cases phase <;> exact ⟨rfl, rfl⟩

/-- The two start positions (R58). -/
theorem atStart_iff (pt : Point) : pt.atStart = true ↔
    pt.cfg.calMode = .full ∧ pt.calPhase = .coarse ∧ pt.calStep = 3 ∨
    pt.cfg.calMode ≠ .full ∧ pt.calPhase = .offset ∧ pt.calStep = 9 := by
  by_cases h : pt.cfg.calMode = .full <;>
    simp [Point.atStart, Settings.startPhase, Settings.startStep, Settings.fullProcedure, h]

theorem procedureDetail_eq (cfg : Settings) : cfg.procedureDetail = if cfg.calMode = .full then 1 else 2 := by
  simp [Settings.procedureDetail, Settings.fullProcedure]

/-! ### The outcome of the verification (R62, R63) -/

section
variable (p : PointId) (pt : Point) {c : Half}

theorem verifyStep_done (h0 : c ≠ 0) (h1 : c ≠ 0xFFFF) (hd : ((c.toNat : Int) - pt.cfg.calTarget).natAbs ≤ pt.cfg.calBand) :
    let pt' := { pt with
      lastCount := c, baseline := 256 * c.toNat, state := .idle, calPhase := .none, calStep := 0, faultCause := .none
      debounce := 0, stuck := 0, lastRawDelta := 0, lastDelta := 0 }
    verifyStep p pt c =
      { pt := pt', trip := none
        record := some (pointRecord .calDone p pt' pt.cfg.procedureDetail ((c.toNat : Int) - pt.cfg.calTarget) c (256 * c.toNat) 0) } := by
  have hc : isSaturated c = false := by
    rw [← Bool.not_eq_true, isSaturated_iff]
    exact not_or.2 ⟨h0, h1⟩
  simp [verifyStep, hc, Settings.targetDistance, hd]

theorem verifyStep_failed
    (h : c = 0 ∨ c = 0xFFFF ∨ pt.cfg.calBand < ((c.toNat : Int) - pt.cfg.calTarget).natAbs) :
    let pt' := { pt with lastCount := c, state := .fault, faultCause := .calFail, calPhase := .none, calStep := 0 }
    verifyStep p pt c =
      { pt := pt', trip := some .pointFault
        record := some (pointRecord .calFail p pt' pt.cfg.procedureDetail ((c.toNat : Int) - pt.cfg.calTarget) c pt.baseline 0) } := by
  refine if_neg fun pass => ?_
  obtain ⟨unsaturated, near⟩ := Bool.and_eq_true_iff.1 pass
  rw [Bool.not_eq_true', ← Bool.not_eq_true, isSaturated_iff] at unsaturated
  rcases h with h | h | far
  · exact unsaturated (.inl h)
  · exact unsaturated (.inr h)
  · exact Nat.not_le.2 far (of_decide_eq_true near)

end

/-- Settles O45: a search step by its phase, the verification by its two outcomes. -/
theorem calibrationStepDecides : Obligations.CalibrationStepDecides := by
  intro p pt g c hs
  refine ⟨fun hp => ?_, fun hp d hd => ?_⟩
  · obtain ⟨coarse, fine, offset⟩ := decideBit_keeps pt.calStep pt.cfg.calTarget c pt.tuning pt.calPhase
    rw [measure_search hs p g c hp]
    refine ⟨decideBit pt.calPhase pt.calStep pt.cfg.calTarget c pt.tuning, (nextStep pt.calPhase pt.calStep).1,
      (nextStep pt.calPhase pt.calStep).2, rfl, rfl, coarse, fine, offset, fun h i _ => ?_, fun h i _ => ?_, fun h i _ => ?_,
      nextStep_within pt.calPhase, fun h0 => ?_, fun start => ?_, fun start => ?_⟩
    · rw [h, decideBit_coarse, getLsbD_decided]
    · rw [h, decideBit_fine, getLsbD_decided]
    · rw [h, decideBit_offset, getLsbD_decided]
    · rw [h0]
      refine ⟨fun h => ?_, fun h => ?_, fun h => ?_⟩ <;> rw [h] <;> exact ⟨rfl, rfl⟩
    · rw [searchStep, if_pos ((atStart_iff pt).2 start), pointRecord, procedureDetail_eq, hs]
      rfl
    · exact if_neg fun h => start ((atStart_iff pt).1 h)
  · subst hd
    rw [measure_verify hs p g c hp, ← procedureDetail_eq]
    refine ⟨fun h0 h1 near => ?_, fun bad => ?_⟩
    · rw [verifyStep_done p pt h0 h1 near]
      exact ⟨rfl, rfl, rfl⟩
    · rw [verifyStep_failed p pt bad]
      exact ⟨rfl, rfl, rfl⟩

/-! ### Saturated counts (R61) -/

section
variable {pt : Point} (hs : pt.state = .calibrating) (p : PointId) (g : GroupView) (c : Half)
include hs

/-- A step of the search leaves the point CALIBRATING, whatever its count. -/
theorem measure_state_of_search (hp : pt.calPhase ≠ .verify) : (measure p pt g c).pt.state = .calibrating := by
  rw [measure_calibrating hs, calibrationStep]
  split
  case h_1 hv => exact absurd hv hp
  all_goals exact hs

theorem measure_tuning_of_search (hp : pt.calPhase = .coarse ∨ pt.calPhase = .fine ∨ pt.calPhase = .offset) :
    (measure p pt g c).pt.tuning = decideBit pt.calPhase pt.calStep pt.cfg.calTarget c pt.tuning := by
  rw [measure_search hs p g c hp]
  rfl

end

/-- Settles O46: the target's range puts 0 below it and 65535 above. -/
theorem saturatedSearchCount : Obligations.SaturatedSearchCount := by
  intro p pt g hs lo hi
  have low : pt.cfg.calTarget ≠ 0 := by omega
  have high : ¬ 65535 ≤ pt.cfg.calTarget := by omega
  have highOffset : pt.cfg.calTarget ≤ 65535 := by omega
  refine ⟨fun hp _ => ?_, fun hp _ => ?_, fun hp _ => ?_, fun hp c => measure_state_of_search hs p g c hp, fun hp c bad => ?_⟩
  · simp [measure_tuning_of_search hs p g _ (.inl hp), hp, decideBit_coarse, high]
  · simp [measure_tuning_of_search hs p g _ (.inr (.inl hp)), hp, decideBit_fine, high]
  · simp [measure_tuning_of_search hs p g _ (.inr (.inr hp)), hp, decideBit_offset, low, highOffset]
  · rw [measure_verify hs p g c hp, verifyStep_failed p pt (bad.imp_right .inl)]
    exact ⟨rfl, rfl⟩

end Sys2Proof.Machine.Calibration
end

section
/-! SUPPORT. 05_baseline_tracking_and_event_detection.md, proved: the steps that end a measurement early, how the engagement state
machine moves a point, the baseline filter, and the stuck limit. -/

namespace Sys2Proof.Machine.Detection

/-! ### The measurements that end early (R73, R74, R75, R51) -/

/-- The pipeline runs in the states that detect (R73). -/
theorem measure_detecting (p : PointId) {pt : Point} (g : GroupView) (c : Half) (hd : pt.state.detecting = true) :
    measure p pt g c = detect p pt g c := by
  rw [measure]
  cases hs : pt.state
  case idle | entering | engaged | leaving => rfl
  case disabled | calibrating | fault => simp [hs, PointState.detecting] at hd

theorem isSaturated_eq_false {c : Half} (h0 : c ≠ 0) (h1 : c ≠ 0xFFFF) : isSaturated c = false := by
  rw [← Bool.not_eq_true, isSaturated_iff]
  exact not_or.2 ⟨h0, h1⟩

section
variable (p : PointId) {pt : Point} (g : GroupView) {c : Half}

theorem detect_saturated (sat : isSaturated c = true) : detect p pt g c = saturate p pt c := if_pos sat

theorem detect_reseed (sat : isSaturated c = false) (armed : pt.armedReseed = true) :
    detect p pt g c = reseedByRequest p pt c := by
  simp [detect, sat, armed]

theorem detect_seed (sat : isSaturated c = false) (unarmed : pt.armedReseed = false) (pending : pt.seedPending = true) :
    detect p pt g c = seed pt c := by
  simp [detect, sat, unarmed, pending]

theorem detect_track (sat : isSaturated c = false) (unarmed : pt.armedReseed = false) (seeded : pt.seedPending = false) :
    detect p pt g c = track p pt g c := by
  simp [detect, sat, unarmed, seeded]

end

/-- Settles O44: each of the first three steps of the pipeline, as the count and the marks select it. -/
theorem measurementEndsEarly : Obligations.MeasurementEndsEarly := by
  intro p pt g c hd
  rw [measure_detecting p g c hd]
  refine ⟨fun sat => ?_, fun h0 h1 armed => ?_, fun h0 h1 unarmed pending => ?_⟩
  · rw [detect_saturated p g ((isSaturated_iff c).2 sat)]
    exact ⟨rfl, rfl, rfl⟩
  · rw [detect_reseed p g (isSaturated_eq_false h0 h1) armed]
    exact ⟨rfl, rfl, rfl⟩
  · exact detect_seed p g (isSaturated_eq_false h0 h1) unarmed pending

/-! ### The engagement state machine (R78 to R82) -/

section
variable (cfg : Settings) {vetoed : Bool} {st : PointState} (n : Nat) (delta : Int)

theorem engagement_idle (hs : st = .idle) (free : vetoed = false) : engagement cfg vetoed st n delta =
    if (cfg.threshold : Int) ≤ delta then (if cfg.enterDebounce ≤ 1 then (.engaged, 0) else (.entering, 1)) else (.idle, 0) := by
  rw [hs, free]
  rfl

theorem engagement_entering (hs : st = .entering) (free : vetoed = false) : engagement cfg vetoed st n delta =
    if (cfg.threshold : Int) ≤ delta then (if n + 1 = cfg.enterDebounce then (.engaged, 0) else (.entering, n + 1))
    else (.idle, 0) := by
  rw [hs, free]
  rfl

/-- The veto returns a point that is not engaged to IDLE, its counter clear (R78, R105). -/
theorem engagement_vetoed (hs : st = .idle ∨ st = .entering) (hv : vetoed = true) :
    engagement cfg vetoed st n delta = (.idle, 0) := by
  rw [hv]
  rcases hs with rfl | rfl <;> rfl

/-- The veto does not touch a point that is ENGAGED or LEAVING (R105). -/
theorem engagement_engaged (hs : st = .engaged) : engagement cfg vetoed st n delta =
    if delta < (cfg.threshold : Int) - cfg.hysteresis then (if cfg.exitDebounce ≤ 1 then (.idle, 0) else (.leaving, 1))
    else (.engaged, 0) := by
  rw [hs]
  rfl

theorem engagement_leaving (hs : st = .leaving) : engagement cfg vetoed st n delta =
    if delta < (cfg.threshold : Int) - cfg.hysteresis then
      (if n + 1 = cfg.exitDebounce then (.idle, 0) else (.leaving, n + 1))
    else (.engaged, 0) := by
  rw [hs]
  rfl

theorem isEngaged_engagement_engaged (hs : st = .engaged) : (engagement cfg vetoed st n delta).1.isEngaged = true ↔
    (cfg.threshold : Int) - cfg.hysteresis ≤ delta ∨ 2 ≤ cfg.exitDebounce := by
  rw [engagement_engaged cfg n delta hs]
  split
  case isFalse held => exact iff_of_true rfl (.inl (Int.not_lt.1 held))
  case isTrue released =>
    split
    case isTrue once => exact iff_of_false Bool.false_ne_true (by omega)
    case isFalse debounced => exact iff_of_true rfl (.inr (by omega))

theorem isEngaged_engagement_leaving (hs : st = .leaving) : (engagement cfg vetoed st n delta).1.isEngaged = true ↔
    (cfg.threshold : Int) - cfg.hysteresis ≤ delta ∨ n + 1 ≠ cfg.exitDebounce := by
  rw [engagement_leaving cfg n delta hs]
  split
  case isFalse held => exact iff_of_true rfl (.inl (Int.not_lt.1 held))
  case isTrue released =>
    split
    case isTrue last => exact iff_of_false Bool.false_ne_true (by omega)
    case isFalse more => exact iff_of_true rfl (.inr more)

end

/-- The engaged states are among those that detect (R73). -/
theorem detecting_of_engaged {st : PointState} (h : st.isEngaged = true) : st.detecting = true := by
  cases st
  case engaged | leaving => rfl
  case disabled | calibrating | idle | entering | fault => exact absurd h Bool.false_ne_true

/-- A point stays engaged exactly when it is ENGAGED or LEAVING and step 6 leaves it so (R81, R82). -/
theorem staysEngaged_iff (pt : Point) (vetoed : Bool) (delta : Int) : pt.StaysEngaged delta ↔
    pt.state.isEngaged = true ∧ (engagement pt.cfg vetoed pt.state pt.debounce delta).1.isEngaged = true := by
  unfold Point.StaysEngaged
  cases hs : pt.state
  case engaged =>
    rw [isEngaged_engagement_engaged _ _ _ rfl]
    simp [PointState.isEngaged]
  case leaving =>
    rw [isEngaged_engagement_leaving _ _ _ rfl]
    simp [PointState.isEngaged]
  case idle | entering | disabled | calibrating | fault => simp [PointState.isEngaged]

/-! ### Steps 4 to 8 by the move of step 6 -/

/-- A measurement of `pt` that reaches step 4, with the delta it finds there (R73, R76, R77). -/
structure Tracks (pt : Point) (g : GroupView) (c : Half) (delta : Int) : Prop where
  detecting : pt.state.detecting = true
  unsaturated : isSaturated c = false
  unarmed : pt.armedReseed = false
  seeded : pt.seedPending = false
  delta_eq : delta = rawDelta pt.cfg.direction c pt.baseline - g.compensation

/-- The baseline after step 7, where step 6 left the point in `st` (R85, R101). -/
def movedBaseline (pt : Point) (g : GroupView) (c : Half) (st : PointState) : Nat :=
  if st = .idle ∧ g.halted = false then filtered pt.cfg c pt.baseline else pt.baseline

/-- The filter leaves the baseline of a point that is not IDLE after step 6, or whose group halts it (R85, R101). -/
theorem movedBaseline_kept {pt : Point} {g : GroupView} {c : Half} {st : PointState} (h : st ≠ .idle ∨ g.halted = true) :
    movedBaseline pt g c st = pt.baseline :=
  if_neg fun ⟨idle, runs⟩ => h.elim (· idle) fun halted => Bool.false_ne_true (runs.symm.trans halted)

theorem movedBaseline_filtered {pt : Point} {g : GroupView} {c : Half} {st : PointState} (idle : st = .idle)
    (runs : g.halted = false) : movedBaseline pt g c st = filtered pt.cfg c pt.baseline := if_pos ⟨idle, runs⟩

/-- The record after steps 4 to 7, where step 6 moved the point to `moved` (R76 to R87). -/
def tracked (pt : Point) (g : GroupView) (c : Half) (delta : Int) (moved : PointState × Nat) : Point :=
  { pt with
    lastCount := c, lastRawDelta := rawDelta pt.cfg.direction c pt.baseline, lastDelta := delta, state := moved.1
    debounce := moved.2, baseline := movedBaseline pt g c moved.1 }

section
variable {pt : Point} {g : GroupView} {c : Half} {delta : Int} {moved : PointState × Nat} (p : PointId)
  (h : Tracks pt g c delta) (hm : engagement pt.cfg g.vetoed pt.state pt.debounce delta = moved)
include h hm

/-- Step 8 and the events, over the record that steps 4 to 7 leave (R84, R88, R91); the lemmas below take one branch each. -/
theorem measure_tracked : measure p pt g c =
    if pt.state.isEngaged then
      if moved.1.isEngaged then
        if pt.cfg.stuckLimit ≠ 0 ∧ nextStuck pt.stuck = pt.cfg.stuckLimit then reseedStuck p (tracked pt g c delta moved) c delta
        else { pt := { tracked pt g c delta moved with stuck := nextStuck pt.stuck }, record := none, trip := none }
      else
        { pt := { tracked pt g c delta moved with stuck := 0 }
          record := some (pointRecord .disengage p (tracked pt g c delta moved) 0 delta c (movedBaseline pt g c moved.1) pt.stuck)
          trip := none }
    else if moved.1 = .engaged then
      { pt := tracked pt g c delta moved
        record := some (pointRecord .engage p (tracked pt g c delta moved) 0 delta c (movedBaseline pt g c moved.1) 0)
        trip := if pt.cfg.urgent then some .engaged else none }
    else { pt := tracked pt g c delta moved, record := none, trip := none } := by
  rw [measure_detecting p g c h.detecting, detect_track p g h.unsaturated h.unarmed h.seeded]
  obtain rfl := h.delta_eq
  subst hm
  rfl

/-- A point that was not engaged becomes ENGAGED (R79, R80, R84). -/
theorem measure_engages (was : pt.state.isEngaged = false) (now : moved.1 = .engaged) : measure p pt g c =
    { pt := tracked pt g c delta moved
      record := some (pointRecord .engage p (tracked pt g c delta moved) 0 delta c pt.baseline 0)
      trip := if pt.cfg.urgent then some .engaged else none } := by
  rw [measure_tracked p h hm, if_neg (Bool.not_eq_true _ ▸ was), if_pos now,
    movedBaseline_kept (.inl fun idle => PointState.noConfusion (now.symm.trans idle))]

/-- A point that was not engaged and does not become ENGAGED leaves no record and no cause (R79, R80, R91). -/
theorem measure_unengaged (was : pt.state.isEngaged = false) (now : moved.1 ≠ .engaged) : measure p pt g c =
    { pt := tracked pt g c delta moved, record := none, trip := none } := by
  rw [measure_tracked p h hm, if_neg (Bool.not_eq_true _ ▸ was), if_neg now]

/-- An engaged point that step 6 leaves neither ENGAGED nor LEAVING disengages (R81, R82, R88). -/
theorem measure_disengages (was : pt.state.isEngaged = true) (now : moved.1.isEngaged = false) : measure p pt g c =
    { pt := { tracked pt g c delta moved with stuck := 0 }
      record := some (pointRecord .disengage p (tracked pt g c delta moved) 0 delta c (movedBaseline pt g c moved.1) pt.stuck)
      trip := none } := by
  rw [measure_tracked p h hm, if_pos was, if_neg (Bool.not_eq_true _ ▸ now)]

/-- A point left engaged, its limit off or its counter not at it, counts on (R88). -/
theorem measure_countsOn (was : pt.state.isEngaged = true) (now : moved.1.isEngaged = true)
    (limit : ¬ (pt.cfg.stuckLimit ≠ 0 ∧ nextStuck pt.stuck = pt.cfg.stuckLimit)) : measure p pt g c =
    { pt := { tracked pt g c delta moved with stuck := nextStuck pt.stuck }, record := none, trip := none } := by
  rw [measure_tracked p h hm, if_pos was, if_pos now, if_neg limit]

/-- A point left engaged whose counter comes to its limit is reseeded (R89). -/
theorem measure_reseeds (was : pt.state.isEngaged = true) (now : moved.1.isEngaged = true) (on : pt.cfg.stuckLimit ≠ 0)
    (limit : nextStuck pt.stuck = pt.cfg.stuckLimit) : measure p pt g c = reseedStuck p (tracked pt g c delta moved) c delta := by
  rw [measure_tracked p h hm, if_pos was, if_pos now, if_pos ⟨on, limit⟩]

end

/-- A measurement that finds a point engaged raises no cause, whatever it moves to (R84). -/
theorem measure_trip_of_engaged {pt : Point} {g : GroupView} {c : Half} {delta : Int} (p : PointId) (h : Tracks pt g c delta)
    (was : pt.state.isEngaged = true) : (measure p pt g c).trip = none := by
  rw [measure_tracked p h rfl, if_pos was]
  split
  · split <;> rfl
  · rfl

/-! ### The moves of an IDLE point (R79) -/

/-- Settles O38: the three branches of the IDLE row. -/
theorem idlePointMoves : Obligations.IdlePointMoves := by
  intro p pt g c delta hs sat unarmed seeded free hdelta
  have h : Tracks pt g c delta := ⟨by rw [hs]; rfl, sat, unarmed, seeded, hdelta⟩
  have was : pt.state.isEngaged = false := by rw [hs]; rfl
  have row := engagement_idle pt.cfg pt.debounce delta hs free
  refine ⟨fun level once => ?_, fun level debounced => ?_, fun low => ?_⟩
  · rw [if_pos level, if_pos once] at row
    rw [measure_engages p h row was rfl]
    exact ⟨rfl, rfl, rfl, rfl⟩
  · rw [if_pos level, if_neg (by omega)] at row
    rw [measure_unengaged p h row was PointState.noConfusion]
    exact ⟨rfl, rfl, rfl, rfl⟩
  · rw [if_neg (by omega)] at row
    rw [measure_unengaged p h row was PointState.noConfusion]
    exact ⟨rfl, rfl, rfl⟩

/-! ### The stuck counter (R88) -/

theorem nextStuck_eq_min {n : Nat} (h : n ≤ 65535) : nextStuck n = min (n + 1) 65535 := by
  unfold nextStuck
  split <;> omega

theorem nextStuck_le_succ (n : Nat) : nextStuck n ≤ n + 1 := by
  unfold nextStuck
  split <;> omega

/-- A counter more than one below its limit, or with the limit off, does not come to it. -/
theorem not_limit_of_below {pt : Point} (h : pt.cfg.stuckLimit = 0 ∨ pt.stuck + 1 < pt.cfg.stuckLimit) :
    ¬ (pt.cfg.stuckLimit ≠ 0 ∧ nextStuck pt.stuck = pt.cfg.stuckLimit) := by
  have := nextStuck_le_succ pt.stuck
  omega

theorem not_limit_of_min_ne {pt : Point} (hn : pt.stuck ≤ 65535)
    (h : pt.cfg.stuckLimit = 0 ∨ min (pt.stuck + 1) 65535 ≠ pt.cfg.stuckLimit) :
    ¬ (pt.cfg.stuckLimit ≠ 0 ∧ nextStuck pt.stuck = pt.cfg.stuckLimit) := by
  rw [nextStuck_eq_min hn]
  exact fun ⟨on, limit⟩ => h.elim on (· limit)

/-! ### The moves of ENGAGED, ENTERING and LEAVING points, and the veto (R78, R80, R81, R82) -/

/-- Settles O39: the branches of the ENGAGED row. -/
theorem engagedPointMoves : Obligations.EngagedPointMoves := by
  intro p pt g c delta hs sat unarmed seeded hdelta
  have h : Tracks pt g c delta := ⟨by rw [hs]; rfl, sat, unarmed, seeded, hdelta⟩
  have was : pt.state.isEngaged = true := by rw [hs]; rfl
  have row := engagement_engaged (vetoed := g.vetoed) pt.cfg pt.debounce delta hs
  refine ⟨measure_trip_of_engaged p h was, fun released once => ?_, fun below =>
    ⟨fun released debounced => ?_, fun held => ?_⟩⟩
  · rw [if_pos released, if_pos once] at row
    rw [measure_disengages p h row was rfl]
    exact ⟨rfl, rfl, rfl, rfl⟩
  · rw [if_pos released, if_neg (by omega)] at row
    rw [measure_countsOn p h row was rfl (not_limit_of_below below)]
    exact ⟨rfl, rfl, rfl⟩
  · rw [if_neg (by omega)] at row
    rw [measure_countsOn p h row was rfl (not_limit_of_below below)]
    exact ⟨rfl, rfl⟩

/-- Settles O40: the branches of the ENTERING row, of the LEAVING row, and the veto. -/
theorem debouncedMoves : Obligations.DebouncedMoves := by
  intro p pt g c delta sat unarmed seeded hdelta
  have tracks : pt.state.detecting = true → Tracks pt g c delta := (⟨·, sat, unarmed, seeded, hdelta⟩)
  refine ⟨fun hs free => ?_, fun hs => ?_, fun hs vetoed => ?_⟩
  · have h := tracks (by rw [hs]; rfl)
    have was : pt.state.isEngaged = false := by rw [hs]; rfl
    have row := engagement_entering pt.cfg pt.debounce delta hs free
    refine ⟨fun level last => ?_, fun level more => ?_, fun low => ?_⟩
    · rw [if_pos level, if_pos last] at row
      rw [measure_engages p h row was rfl]
      exact ⟨rfl, rfl, rfl, rfl⟩
    · rw [if_pos level, if_neg (by omega)] at row
      rw [measure_unengaged p h row was PointState.noConfusion]
      exact ⟨rfl, rfl, rfl, rfl⟩
    · rw [if_neg (by omega)] at row
      rw [measure_unengaged p h row was PointState.noConfusion]
      exact ⟨rfl, rfl, rfl, rfl⟩
  · have h := tracks (by rw [hs]; rfl)
    have was : pt.state.isEngaged = true := by rw [hs]; rfl
    have row := engagement_leaving (vetoed := g.vetoed) pt.cfg pt.debounce delta hs
    refine ⟨measure_trip_of_engaged p h was, fun released last => ?_, fun below =>
      ⟨fun released more => ?_, fun held => ?_⟩⟩
    · rw [if_pos released, if_pos last] at row
      rw [measure_disengages p h row was rfl]
      exact ⟨rfl, rfl, rfl, rfl⟩
    · rw [if_pos released, if_neg (by omega)] at row
      rw [measure_countsOn p h row was rfl (not_limit_of_below below)]
      exact ⟨rfl, rfl, rfl⟩
    · rw [if_neg (by omega)] at row
      rw [measure_countsOn p h row was rfl (not_limit_of_below below)]
      exact ⟨rfl, rfl, rfl⟩
  · have h := tracks (by rcases hs with hs | hs <;> rw [hs] <;> rfl)
    have was : pt.state.isEngaged = false := by rcases hs with hs | hs <;> rw [hs] <;> rfl
    have row := engagement_vetoed pt.cfg pt.debounce delta hs vetoed
    rw [measure_unengaged p h row was PointState.noConfusion]
    exact ⟨rfl, rfl, rfl, rfl⟩

/-! ### The stuck limit (R88, R89, R90) -/

/-- A RESEED record's detail for the cause STUCK: bit 0, and bit 1 where a recalibration follows (R90). -/
theorem reseedDetail_stuck (follows : Bool) : reseedDetail true follows = if follows then 3 else 1 := by
  cases follows <;> rfl

/-- Settles O43: a point that stays engaged counts on, or comes to its limit. -/
theorem stuckLimitReseeds : Obligations.StuckLimitReseeds := by
  intro p pt g c delta sat unarmed seeded hdelta stays
  obtain ⟨was, now⟩ := (staysEngaged_iff pt g.vetoed delta).1 stays
  have h : Tracks pt g c delta := ⟨detecting_of_engaged was, sat, unarmed, seeded, hdelta⟩
  refine ⟨fun limit le => ?_, fun on limit lt follows hf => ?_⟩
  · rw [measure_countsOn p h rfl was now (not_limit_of_min_ne le limit), ← nextStuck_eq_min le]
    exact ⟨rfl, rfl, rfl, now⟩
  · have reached : nextStuck pt.stuck = pt.cfg.stuckLimit := (if_pos lt).trans limit
    rw [measure_reseeds p h rfl was now on reached, ← reseedDetail_stuck, hf]
    exact ⟨rfl, rfl, rfl⟩

/-! ### The baseline filter (R85, R86, R87) -/

/-- A part of a way, quotient toward zero, lies between nothing and the whole of it. -/
theorem tdiv_pow_bounds (d : Int) (k : Nat) :
    (0 ≤ d → 0 ≤ d.tdiv (2 ^ k) ∧ d.tdiv (2 ^ k) ≤ d) ∧ (d ≤ 0 → d ≤ d.tdiv (2 ^ k) ∧ d.tdiv (2 ^ k) ≤ 0) := by
  have pos : (0 : Int) ≤ 2 ^ k := Int.le_of_lt (Int.pow_pos (by decide))
  have up : ∀ e : Int, 0 ≤ e → 0 ≤ e.tdiv (2 ^ k) ∧ e.tdiv (2 ^ k) ≤ e := fun e he =>
    ⟨Int.tdiv_nonneg he pos, Int.tdiv_le_self _ he⟩
  refine ⟨up d, fun hd => ?_⟩
  have := up (-d) (by omega)
  rw [Int.neg_tdiv] at this
  omega

/-- A filter move: no floor at zero is met, since the move stays between two values that are not negative (R85, R87). -/
theorem filtered_eq (cfg : Settings) (c : Half) (baseline : Nat) : (filtered cfg c baseline : Int) =
    baseline + Int.tdiv (256 * (c.toNat : Int) - baseline) (2 ^ beta cfg c baseline) := by
  obtain ⟨up, down⟩ := tdiv_pow_bounds (256 * (c.toNat : Int) - baseline) (beta cfg c baseline)
  rw [filtered, Int.toNat_of_nonneg]
  omega

/-- A filter move never carries the baseline past the count (R87). -/
theorem filtered_between (cfg : Settings) (c : Half) (baseline : Nat) :
    (baseline ≤ 256 * c.toNat → baseline ≤ filtered cfg c baseline ∧ filtered cfg c baseline ≤ 256 * c.toNat) ∧
    (256 * c.toNat ≤ baseline → 256 * c.toNat ≤ filtered cfg c baseline ∧ filtered cfg c baseline ≤ baseline) := by
  obtain ⟨up, down⟩ := tdiv_pow_bounds (256 * (c.toNat : Int) - baseline) (beta cfg c baseline)
  have move := filtered_eq cfg c baseline
  omega

theorem beta_eq (cfg : Settings) (c : Half) (baseline : Nat) : beta cfg c baseline =
    if cfg.direction = .rising ∧ 256 * c.toNat < baseline ∨ cfg.direction = .falling ∧ baseline < 256 * c.toNat
      then cfg.fastBeta else cfg.slowBeta := by
  unfold beta
  cases cfg.direction <;> simp

/-- A measurement that no limit reseeds leaves the record of steps 4 to 7, but for the stuck counter (R88). -/
theorem measure_pt_eq_tracked {pt : Point} {g : GroupView} {c : Half} {delta : Int} (p : PointId) (h : Tracks pt g c delta)
    (limit : pt.StaysEngaged delta → ¬ (pt.cfg.stuckLimit ≠ 0 ∧ nextStuck pt.stuck = pt.cfg.stuckLimit)) :
    ∃ moved n, (measure p pt g c).pt = { tracked pt g c delta moved with stuck := n } := by
  refine ⟨engagement pt.cfg g.vetoed pt.state pt.debounce delta, ?_⟩
  rw [staysEngaged_iff pt g.vetoed] at limit
  rw [measure_tracked p h rfl]
  split
  case isTrue was =>
    split
    case isTrue now => exact ⟨_, by rw [if_neg (limit ⟨was, now⟩)]⟩
    case isFalse => exact ⟨_, rfl⟩
  case isFalse => split <;> exact ⟨pt.stuck, rfl⟩

/-- Settles O42: the fields of the tracked record, and the bounds of a filter move. -/
theorem deltaAndBaseline : Obligations.DeltaAndBaseline := by
  refine ⟨fun p pt g c q hd sat unarmed seeded le limit hq => ?_, filtered_between⟩
  have h : Tracks pt g c _ := ⟨hd, sat, unarmed, seeded, rfl⟩
  obtain ⟨moved, n, e⟩ := measure_pt_eq_tracked p h fun stays => not_limit_of_min_ne le (limit stays)
  rw [e] at hq
  subst hq
  refine ⟨rfl, ?_, rfl, movedBaseline_kept, fun idle runs b hb => ?_⟩
  · show rawDelta pt.cfg.direction c pt.baseline = _
    cases pt.cfg.direction
    case falling => exact Int.neg_sub _ _
    case rising | either => rfl
  · rw [← beta_eq] at hb
    subst hb
    exact (congrArg _ (movedBaseline_filtered idle runs)).trans (filtered_eq _ _ _)

end Sys2Proof.Machine.Detection
end

section
/-! SUPPORT. 06_point_groups.md, proved: what CONFIG_GROUP leaves of the group table, what a group brings to a measurement, and
that every step keeps the groups disjoint, each reference a member. -/

namespace Sys2Proof.Machine.PointGroups

/-! ### Point sets -/

/-- Two sets meet exactly when they share a point. -/
theorem and_ne_zero_iff (a b : PointSet) : a &&& b ≠ 0 ↔ ∃ p : PointId, inSet a p = true ∧ inSet b p = true := by
  constructor
  · intro meet
    refine Classical.byContradiction fun apart => meet (BitVec.eq_of_getLsbD_eq fun i hi => ?_)
    have unset : (a &&& b).getLsbD i = false := by
      rw [BitVec.getLsbD_and, Bool.eq_false_iff, ne_eq, Bool.and_eq_true]
      exact fun ⟨ha, hb⟩ => apart ⟨⟨i, hi⟩, ha, hb⟩
    exact unset.trans BitVec.getLsbD_zero.symm
  · rintro ⟨p, ha, hb⟩ empty
    have bit : (a &&& b).getLsbD p.val = true := by
      rw [BitVec.getLsbD_and, Bool.and_eq_true]
      exact ⟨ha, hb⟩
    rw [empty] at bit
    cases bit.symm.trans BitVec.getLsbD_zero

theorem mem_pointsOf {set : PointSet} {p : PointId} : p ∈ pointsOf set ↔ inSet set p = true := by simp [pointsOf]

/-! ### One record (R96, R97) -/

/-- A record whose weight is at most 512 and whose reference is a member (R96, R97). -/
def RecordOk (g : Group) : Prop := g.weight ≤ 512 ∧ ∀ p : PointId, g.reference = some p → inSet g.members p = true

/-- No point is a member of two of the records (R97). -/
def GroupsDisjoint (groups : Vector Group 4) : Prop :=
  ∀ (i j : Fin 4) (p : PointId), inSet groups[i].members p = true → inSet groups[j].members p = true → i = j

theorem groupsOk_iff (groups : Vector Group 4) : GroupsOk groups ↔ GroupsDisjoint groups ∧ ∀ i : Fin 4, RecordOk groups[i] := Iff.rfl

/-- A record without a point (R54 step 5): the point that leaves is not its reference any more, and every other member stays. -/
theorem recordOk_without {g : Group} (h : RecordOk g) (p : PointId) : RecordOk (g.without p) := by
  obtain ⟨weight, reference⟩ := h
  obtain ⟨cleared, kept, sameWeight, -⟩ := SensePoints.without_keeps g p
  refine ⟨sameWeight ▸ weight, fun q hq => ?_⟩
  rw [Group.without_members]
  by_cases left : g.reference = some p
  · rw [cleared (reference p left) left] at hq
    cases hq
  · rw [kept left] at hq
    have other : q ≠ p := fun e => left (e ▸ hq)
    simp [reference q hq, other]

/-- The record that CONFIG_GROUP leaves has the request's members (R99). -/
theorem orCleared_members (g : Group) : g.orCleared.members = g.members := by
  unfold Group.orCleared
  split
  · rename_i empty
    exact empty.symm
  · rfl

theorem recordOk_orCleared {g : Group} (h : RecordOk g) : RecordOk g.orCleared := by
  unfold Group.orCleared
  split
  · exact ⟨Nat.zero_le _, fun p hp => by cases hp⟩
  · exact h

/-! ### The table after RELEASE_POINT and CONFIG_GROUP (R54, R99) -/

/-- A point released leaves its group; no set gains a member. -/
theorem groupsOk_without {groups after : Vector Group 4} (h : GroupsOk groups) (p : PointId)
    (released : ∀ i : Fin 4, after[i] = groups[i].without p) : GroupsOk after := by
  obtain ⟨disjoint, records⟩ := (groupsOk_iff groups).1 h
  have was : ∀ (i : Fin 4) (q : PointId), inSet after[i].members q = true → inSet groups[i].members q = true := fun i q hq => by
    rw [released, Group.without_members, Bool.and_eq_true] at hq
    exact hq.1
  refine (groupsOk_iff after).2 ⟨fun i j q hi hj => disjoint i j q (was i q hi) (was j q hj), fun i => ?_⟩
  rw [released]
  exact recordOk_without (records i) p

theorem group_set (groups : Vector Group 4) (i j : Fin 4) (g : Group) :
    (groups.set i.val g i.isLt)[j] = if j = i then g else groups[j] := by
  simp [Vector.getElem_set, Fin.ext_iff, eq_comm]

/-- The conflict that refuses a CONFIG_GROUP: another group has a member of the request's set (R99). -/
theorem groupConflict_iff (groups : Vector Group 4) (i : Fin 4) (members : PointSet) :
    groupConflict groups i members = true ↔
      ∃ (j : Fin 4) (p : PointId), j ≠ i ∧ inSet groups[j].members p = true ∧ inSet members p = true := by
  simp only [groupConflict, List.any_eq_true, List.mem_finRange, true_and, Bool.and_eq_true, decide_eq_true_eq, and_ne_zero_iff,
    exists_and_left]

/-- A record without conflict put in place of another leaves the groups disjoint (R97, R99). -/
theorem groupsOk_set {groups : Vector Group 4} (h : GroupsOk groups) {i : Fin 4} {g : Group} (ok : RecordOk g)
    (free : groupConflict groups i g.members = false) : GroupsOk (groups.set i.val g i.isLt) := by
  obtain ⟨disjoint, records⟩ := (groupsOk_iff groups).1 h
  have alone : ∀ (j : Fin 4) (p : PointId), inSet groups[j].members p = true → inSet g.members p = true → j = i := fun j p hj hg =>
    Classical.byContradiction fun other =>
      Bool.eq_false_iff.1 free ((groupConflict_iff groups i g.members).2 ⟨j, p, other, hj, hg⟩)
  refine (groupsOk_iff _).2 ⟨fun a b p ha hb => ?_, fun a => ?_⟩
  · rw [group_set] at ha hb
    split at ha <;> split at hb
    case isTrue.isTrue ea eb => rw [ea, eb]
    case isTrue.isFalse ea _ => rw [ea, alone b p hb ha]
    case isFalse.isTrue _ eb => rw [eb, alone a p ha hb]
    case isFalse.isFalse => exact disjoint a b p ha hb
  · rw [group_set]
    split
    · exact ok
    · exact records a

/-! ### CONFIG_GROUP applied (R99, R100) -/

section
variable {s : State} {h : Held} {i : Fin 4} {g : Group}

theorem applyConfigGroup_refuses (conflict : groupConflict s.eng.groups i g.members = true) :
    applyConfigGroup h i g s = answer h (Answer.refused .groupConflict) s :=
  if_pos conflict

theorem applyConfigGroup_replaces (free : groupConflict s.eng.groups i g.members = false) : applyConfigGroup h i g s =
    answer h (Answer.done (BitVec.ofNat 32 (setSize g.members)))
      (s.setEng { s.eng with groups := s.eng.groups.set i.val g.orCleared i.isLt }) :=
  if_neg (by simp [free])

/-- Either way the request issues its answer alone, so no order of receipt is open. -/
theorem exec_configGroup (hb : s.betweenFrames = true) (hw : s.Awaits h (.configGroup i g)) :
    exec .configGroup s = .next (applyConfigGroup h i g s) := by
  rw [exec_boundary hb hw rfl, applyBoundary]
  cases hc : groupConflict s.eng.groups i g.members
  · rw [applyConfigGroup_replaces hc, receiveTogether_answer _ _ (by simp)]
  · rw [applyConfigGroup_refuses hc, receiveTogether_answer _ _ rfl]

end

/-- Settles O29: by whether another group has a member of the set. -/
theorem configGroupApplied : Obligations.ConfigGroupApplied := by
  intro s h i g hb hw
  rw [exec_configGroup hb hw]
  refine ⟨fun shared => ?_, fun free n g' hn hg => ?_⟩
  · rw [applyConfigGroup_refuses ((groupConflict_iff _ _ _).2 shared)]
    rfl
  · have apart : groupConflict s.eng.groups i g.members = false := by
      rw [Bool.eq_false_iff, ne_eq, groupConflict_iff]
      rintro ⟨j, p, other, hj, hp⟩
      simp [free j p other hj] at hp
    rw [applyConfigGroup_replaces apart, hn, hg]
    rfl

/-! ### What a group brings to a measurement (R101, R103 to R105) -/

theorem isEngaged_iff (st : PointState) : st.isEngaged = true ↔ st = .engaged ∨ st = .leaving := by
  cases st <;> simp [PointState.isEngaged]

theorem groupOf_of_no_member {groups : Vector Group 4} {p : PointId} (h : ∀ i : Fin 4, inSet groups[i].members p = false) :
    groupOf groups p = none :=
  (snapshotLayout.2 groups p).1.2 h

/-- Where the groups are disjoint, the group of a member is the one it is found in (R97). -/
theorem groupOf_of_member {groups : Vector Group 4} (h : GroupsDisjoint groups) {i : Fin 4} {p : PointId}
    (member : inSet groups[i].members p = true) : groupOf groups p = some i := by
  obtain ⟨none_iff, found_member⟩ := snapshotLayout.2 groups p
  cases found : groupOf groups p with
  | none => exact absurd member (Bool.eq_false_iff.1 (none_iff.1 found i))
  | some j => rw [h j i p (found_member j found) member]

/-- Some other member is ENGAGED or LEAVING (R101). -/
theorem othersEngaged_iff (g : Group) (points : Vector Point 32) (p : PointId) : g.othersEngaged points p = true ↔
    ∃ q : PointId, q ≠ p ∧ inSet g.members q = true ∧ (points[q].state = .engaged ∨ points[q].state = .leaving) := by
  simp only [Group.othersEngaged, List.any_eq_true, mem_pointsOf, Bool.and_eq_true, decide_eq_true_eq, isEngaged_iff]
  exact exists_congr fun q => and_left_comm

/-- The reference that a point follows: its group's, when it is another point (R97). -/
theorem referenceFor_eq_some (g : Group) (p r : PointId) : g.referenceFor p = some r ↔ g.reference = some r ∧ r ≠ p := by
  simp [Group.referenceFor, Option.filter_eq_some_iff]

theorem referenceFor_eq_none (g : Group) (p : PointId) :
    g.referenceFor p = none ↔ g.reference = none ∨ g.reference = some p := by
  unfold Group.referenceFor
  cases g.reference <;> simp

section
variable {points : Vector Point 32} {groups : Vector Group 4} {p : PointId} {i : Fin 4} (found : groupOf groups p = some i)
include found

theorem groupView_halted :
    (groupView points groups p).halted = (groups[i].halt && groups[i].othersEngaged points p) := by
  unfold groupView
  rw [found]
  dsimp only
  split <;> rfl

/-- A reference, and a member of a group without one, takes neither compensation nor veto (R97). -/
theorem groupView_leads (h : groups[i].referenceFor p = none) :
    (groupView points groups p).compensation = 0 ∧ (groupView points groups p).vetoed = false := by
  unfold groupView
  rw [found]
  dsimp only
  rw [h]
  exact ⟨rfl, rfl⟩

/-- A follower takes both from its reference (R103, R105). -/
theorem groupView_follows {r : PointId} (h : groups[i].referenceFor p = some r) :
    (groupView points groups p).compensation =
      (if points[p].cfg.direction = .either then 0 else groups[i].compensation points[r]) ∧
    (groupView points groups p).vetoed = points[r].state.isEngaged := by
  unfold groupView
  rw [found]
  dsimp only
  rw [h]
  exact ⟨rfl, rfl⟩

theorem groupView_halted_iff : (groupView points groups p).halted = true ↔ groups[i].halt = true ∧
    ∃ q : PointId, q ≠ p ∧ inSet groups[i].members q = true ∧
      (points[q].state = .engaged ∨ points[q].state = .leaving) := by
  rw [groupView_halted found, Bool.and_eq_true, othersEngaged_iff]

theorem groupView_vetoed_iff : (groupView points groups p).vetoed = true ↔ ∃ r : PointId, groups[i].reference = some r ∧ r ≠ p ∧
    (points[r].state = .engaged ∨ points[r].state = .leaving) := by
  simp only [← and_assoc, ← referenceFor_eq_some, ← isEngaged_iff]
  cases follows : groups[i].referenceFor p with
  | none => simp [groupView_leads found follows]
  | some r => simp [groupView_follows found follows]

theorem groupView_compensates {r : PointId} (hr : groups[i].reference = some r) (other : r ≠ p)
    (direction : points[p].cfg.direction ≠ .either) (detects : points[r].state.detecting = true) :
    (groupView points groups p).compensation = Int.tdiv (groups[i].weight * points[r].lastRawDelta) 256 := by
  obtain ⟨compensation, -⟩ := groupView_follows (points := points) found ((referenceFor_eq_some _ _ _).2 ⟨hr, other⟩)
  rw [compensation, if_neg direction, Group.compensation, if_pos detects]

/-- Without a reference that it follows and that detects, or in direction EITHER, a point is not compensated (R97, R103, R104). -/
theorem groupView_uncompensated (h : groups[i].reference = none ∨ groups[i].reference = some p ∨
      points[p].cfg.direction = .either ∨ ∃ r : PointId, groups[i].reference = some r ∧ points[r].state.detecting = false) :
    (groupView points groups p).compensation = 0 := by
  cases follows : groups[i].referenceFor p with
  | none => exact (groupView_leads found follows).1
  | some r =>
    obtain ⟨hr, other⟩ := (referenceFor_eq_some _ _ _).1 follows
    rw [(groupView_follows found follows).1, Group.compensation]
    rcases h with missing | self | direction | ⟨q, hq, undetecting⟩
    · cases hr.symm.trans missing
    · exact absurd (Option.some.inj (hr.symm.trans self)) other
    · rw [if_pos direction]
    · obtain rfl : r = q := Option.some.inj (hr.symm.trans hq)
      rw [if_neg (Bool.eq_false_iff.1 undetecting), ite_self]

end

/-- Settles O41: the point's group is the one it is a member of, and the view by the reference the point follows. -/
theorem groupTakesPart : Obligations.GroupTakesPart := by
  intro points groups p ok
  obtain ⟨disjoint, -⟩ := (groupsOk_iff groups).1 ok
  refine ⟨fun outside => ?_, fun i member => ?_⟩
  · rw [groupView, groupOf_of_no_member outside]
    rfl
  · have found := groupOf_of_member disjoint member
    exact ⟨groupView_halted_iff found, groupView_vetoed_iff found, fun r => groupView_compensates found,
      groupView_uncompensated found⟩

/-! ### An applied request keeps the groups disjoint (R54, R99) -/

/-- What leaves the group table alone keeps it sound. -/
theorem groupsOk_of_eq {s t : State} (h : GroupsOk s.eng.groups) (e : t.eng.groups = s.eng.groups) : GroupsOk t.eng.groups :=
  e ▸ h

/-- The walker's checks hold a CONFIG_GROUP's record to R98. -/
theorem recordOk_of_parse {b : Vector Word 16} {i : Fin 4} {g : Group} (hp : parse b = .ok (.configGroup i g)) : RecordOk g := by
  obtain ⟨-, -, -, reads⟩ := parse_reads b
  obtain ⟨⟨kind, -⟩, -⟩ := reads _ hp
  have read := parse_eq_ok.1 hp
  simp only [contentOf, kind, Option.some.injEq] at read
  exact configGroupOf_ok read

section
variable {s : State} (ok : GroupsOk s.eng.groups)
include ok

theorem groupsOk_applyConfigGroup (h : Held) (i : Fin 4) {g : Group} (hg : RecordOk g) :
    GroupsOk (applyConfigGroup h i g s).eng.groups := by
  cases hc : groupConflict s.eng.groups i g.members
  · rw [applyConfigGroup_replaces hc]
    refine groupsOk_set ok (recordOk_orCleared hg) ?_
    rw [orCleared_members]
    exact hc
  · rw [applyConfigGroup_refuses hc]
    exact ok

theorem groupsOk_applyBoundary {h : Held} {r : Request} (hp : parse h.block = .ok r) : GroupsOk (applyBoundary h r s).eng.groups := by
  cases r with
  | configGroup i g => exact groupsOk_applyConfigGroup ok h i (recordOk_of_parse hp)
  | releasePoint p => exact groupsOk_without ok p (SensePoints.applyReleasePoint_group h p s)
  | configPoint p cfg => exact groupsOk_of_eq ok (by simp [applyBoundary])
  | setTiming t => exact groupsOk_of_eq ok (by simp [applyBoundary])
  | recalibrate set => exact groupsOk_of_eq ok (by simp [applyBoundary])
  | reseed set => exact groupsOk_of_eq ok (by simp [applyBoundary])
  | snapshot buffer set => exact groupsOk_of_eq ok (by simp [applyBoundary])
  | mark tag => exact groupsOk_of_eq ok (by simp [applyBoundary])
  | _ => exact ok

theorem groupsOk_applyWaiting : GroupsOk (applyWaiting s).eng.groups := by
  unfold applyWaiting
  split
  · rename_i h r found
    obtain ⟨-, hp, -⟩ := State.awaits_of_found found
    exact groupsOk_applyBoundary ok hp
  · exact ok

theorem groupsOk_applyReached : GroupsOk (applyReached s).eng.groups := by
  unfold applyReached
  split
  · exact groupsOk_applyWaiting ok
  · exact ok

theorem groupsOk_reachEngine : GroupsOk (reachEngine s).eng.groups := by
  unfold reachEngine
  split
  · exact groupsOk_applyWaiting ok
  · exact ok

end

/-! ### A frame changes the groups by the request that waited for its end only (R31, R119, R123) -/

theorem admissionCheck_groups (s : State) : (admissionCheck s).eng.groups = s.eng.groups := by
  have asked := askRoom_keeps s s.eng.reservation
  unfold admissionCheck
  generalize askRoom s.eng.reservation s = answer at asked ⊢
  obtain ⟨room, t⟩ := answer
  obtain ⟨-, -, (eng : t.eng = s.eng), -⟩ := asked
  cases room
  · simp [skipFrame, eng]
  · simp [beginFrame, enterFrame, eng]

theorem expiredInFrame_groups (e : ScanEngine) : e.expiredInFrame.groups = e.groups := by
  unfold ScanEngine.expiredInFrame
  split <;> rfl

theorem expiriesInFrame_groups : ∀ (n : Nat) (s : State), (expiriesInFrame n s).eng.groups = s.eng.groups
  | 0, _ => rfl
  | n + 1, s => by
    unfold expiriesInFrame
    split
    · rfl
    · rw [expiriesInFrame_groups n, State.setEng_eng, expiredInFrame_groups]

theorem leaveScanning_groups (x : EndExpiries) (s : State) : (leaveScanning x s).eng.groups = s.eng.groups := by
  obtain ⟨judge, -⟩ := judge_judges s
  have judged : s.eng.judge.groups = s.eng.groups := by rw [judge]
  simp [leaveScanning, expiriesCounted, addMerged, expiriesInFrame_groups, judged]

section
variable {s : State} (ok : GroupsOk s.eng.groups)
include ok

theorem groupsOk_admissionCheck : GroupsOk (admissionCheck s).eng.groups := groupsOk_of_eq ok (admissionCheck_groups s)

theorem groupsOk_endFrame : GroupsOk (endFrame s).eng.groups :=
  groupsOk_applyWaiting (groupsOk_of_eq ok (leaveScanning_groups _ s))

theorem groupsOk_finishPlain : GroupsOk (finishPlain s).eng.groups := by
  have ends := groupsOk_endFrame ok
  have admits := groupsOk_admissionCheck
    (s := (endFrame s).setEng { (endFrame s).eng with startPending := false }) ends
  unfold finishPlain
  dsimp only
  split
  · split
    · split
      · exact groupsOk_endFrame admits
      · exact admits
    · exact ends
  · exact ok

/-- An expiry keeps the groups disjoint if the end of a frame that it begins does. -/
theorem groupsOk_expire {finish : List EndExpiries → State → List EndExpiries × State}
    (hf : ∀ (l : List EndExpiries) (x : State), GroupsOk x.eng.groups → GroupsOk (finish l x).2.eng.groups)
    (ends : List EndExpiries) : GroupsOk (expire finish ends s).2.eng.groups := by
  unfold expire
  split
  · exact ok
  · split
    · exact hf _ _ (groupsOk_admissionCheck (s := s.setEng s.eng.restarted) ok)
    · exact groupsOk_of_eq ok (expiredInFrame_groups _)
    · exact ok
    · exact ok

end

theorem groupsOk_expireTimes {finish : List EndExpiries → State → List EndExpiries × State}
    (hf : ∀ (l : List EndExpiries) (x : State), GroupsOk x.eng.groups → GroupsOk (finish l x).2.eng.groups) :
    ∀ (n : Nat) {s : State} (_ : GroupsOk s.eng.groups) (ends : List EndExpiries),
      GroupsOk (expireTimes finish n ends s).2.eng.groups
  | 0, _, ok, _ => ok
  | n + 1, _, ok, ends => groupsOk_expireTimes hf n (groupsOk_expire ok hf ends) _

theorem groupsOk_finishFrame : ∀ (n : Nat) (ends : List EndExpiries) (s : State), GroupsOk s.eng.groups →
    GroupsOk (finishFrame n ends s).2.eng.groups
  | 0, _, _, ok => groupsOk_finishPlain ok
  | _ + 1, [], _, ok => groupsOk_finishPlain ok
  | n + 1, x :: xs, s, ok => by
    have hf := groupsOk_finishFrame n
    have reached := groupsOk_applyReached (groupsOk_of_eq ok (leaveScanning_groups x s))
    unfold finishFrame
    dsimp only
    split
    · have expired := groupsOk_expireTimes hf x.unreached reached xs
      generalize expireTimes (finishFrame n) x.unreached xs _ = r at expired ⊢
      have left := groupsOk_expireTimes hf x.left (groupsOk_reachEngine expired) r.1
      generalize expireTimes (finishFrame n) x.left r.1 _ = r' at left ⊢
      split
      · exact hf _ _ (groupsOk_admissionCheck (s := r'.2.setEng { r'.2.eng with startPending := false }) left)
      · exact left
    · exact ok

section
variable {s : State} (ok : GroupsOk s.eng.groups)
include ok

theorem groupsOk_frameExpiry (ends : List EndExpiries) : GroupsOk (frameExpiry ends s).eng.groups :=
  groupsOk_expire ok (groupsOk_finishFrame _) ends

theorem groupsOk_cutEnd : GroupsOk (cutEnd s).eng.groups := groupsOk_applyWaiting (groupsOk_of_eq ok (by simp [leaveCut]))

theorem groupsOk_scanConversion (c : Half) (ends : List EndExpiries) : GroupsOk (scanConversion c ends s).eng.groups := by
  unfold scanConversion
  dsimp only
  split
  · rename_i p _ _
    have released : GroupsOk (releaseConverter (measurePoint p c s)).eng.groups := groupsOk_of_eq ok (by simp)
    split
    · exact groupsOk_finishFrame _ _ _ (groupsOk_of_eq released (by simp))
    · exact groupsOk_cutEnd released
    · exact released
    · exact released
  · exact ok

theorem groupsOk_scanEvent {f : State → State} (hf : ∀ x : State, GroupsOk x.eng.groups → GroupsOk (f x).eng.groups) :
    GroupsOk (scanEvent f s).eng.groups :=
  groupsOk_of_eq (hf s.eventBegun ok) (by simp)

/-! ### The stop order, resets and memory faults (R123, R172, R176, R12) -/

theorem groupsOk_stopScan : GroupsOk (stopScan s).eng.groups := by
  have cut := groupsOk_cutEnd (s := withdrawScan (s.setEng { s.eng with frameTimer := none })) ok
  unfold stopScan
  dsimp only
  split
  · exact ok
  · split
    · exact ok
    · exact cut
    · exact cut
  · exact ok
  · exact ok

theorem groupsOk_stopOrder : GroupsOk (stopOrder s).eng.groups :=
  groupsOk_of_eq (groupsOk_stopScan (s := s.setCtl { s.ctl with op := .stopping, run := false, refusedWrite := false }) ok)
    (by simp [stopOrder])

theorem groupsOk_changeRun : GroupsOk (changeRun s).eng.groups := by
  unfold changeRun
  split
  case h_2 => exact groupsOk_stopOrder ok
  case h_3 => exact groupsOk_of_eq ok (by simp [resumeRunning])
  all_goals exact groupsOk_of_eq ok (by simp)

omit ok in
/-- Every group is cleared by either reset (R96). -/
theorem groupsOk_resetUnits (t : State) : GroupsOk (resetUnits t).eng.groups := by
  have cleared : ∀ i : Fin 4, (resetUnits t).eng.groups[i] = Group.reset := fun i => by
    simp [resetUnits, State.reset, ScanEngine.reset]
  refine (groupsOk_iff _).2 ⟨fun i j p member => ?_, fun i => ?_⟩
  · simp [cleared, Group.reset, inSet] at member
  · rw [cleared]
    exact ⟨Nat.zero_le _, fun p hp => by cases hp⟩

theorem groupsOk_controlWrite (data : Word) : GroupsOk (controlWrite data s).eng.groups := by
  unfold controlWrite
  split
  · exact ok
  split
  · exact groupsOk_resetUnits s
  split
  · exact groupsOk_of_eq ok (by simp)
  · exact groupsOk_of_eq (groupsOk_changeRun ok) (by simp)

theorem groupsOk_memoryFault (kind : FaultKind) (cause : Cause) : GroupsOk (memoryFault kind cause s).eng.groups := by
  unfold memoryFault
  split
  · exact ok
  · exact groupsOk_of_eq ok (by simp [faultUnits])

theorem groupsOk_carryOut (e : ScanEvent) : GroupsOk (carryOut e s).eng.groups := by
  cases e with
  | scanConversion c ends => exact groupsOk_scanEvent ok fun x hx => groupsOk_scanConversion hx c ends
  | frameExpiry ends => exact groupsOk_scanEvent ok fun x hx => groupsOk_frameExpiry hx ends
  | boundary =>
    rw [carryOut]
    split
    · exact groupsOk_applyWaiting ok
    · exact ok
  | stopOrder =>
    rw [carryOut]
    split
    · exact groupsOk_stopOrder ok
    · exact ok

theorem groupsOk_racedFault (kind : FaultKind) (cause : Cause) (race : Option FaultRace) :
    GroupsOk (racedFault kind cause race s).eng.groups := by
  unfold racedFault
  split
  · exact ok
  · exact groupsOk_memoryFault ok _ _
  · rename_i r _
    have carried := groupsOk_carryOut (s := s.setOut { s.out with entryAfter := some r.taken }) ok r.event
    exact groupsOk_memoryFault (s := beforeFault r s) carried _ _

end

/-! ### The walker's accesses and the other agents' writes leave the groups alone -/

theorem headerRead_groups (half : Vector Word 8) (s : State) : (headerRead half s).eng.groups = s.eng.groups := by
  unfold headerRead
  split
  · split <;> simp [enterRunning]
  · rfl

theorem linkRead_eng (link : Word) (s : State) : (linkRead link s).eng = s.eng := by
  unfold linkRead
  (repeat' split) <;> simp

theorem blockRead_eng (block : Vector Word 16) (s : State) : (blockRead block s).eng = s.eng := by
  unfold blockRead
  (repeat' split) <;> simp

theorem takenWritten_eng (s : State) : (takenWritten s).eng = s.eng := by
  unfold takenWritten
  (repeat' split) <;> simp

theorem resultWritten_eng (s : State) : (resultWritten s).eng = s.eng := by
  unfold resultWritten
  (repeat' split) <;> simp

theorem closedWritten_eng (s : State) : (closedWritten s).eng = s.eng := by
  unfold closedWritten
  (repeat' split) <;> simp

theorem snapshotWritten_eng (s : State) : (snapshotWritten s).eng = s.eng := by
  unfold snapshotWritten
  dsimp only
  (repeat' split) <;> simp

theorem journalWritten_eng (s : State) : (journalWritten s).eng = s.eng := by
  unfold journalWritten
  dsimp only
  (repeat' split) <;> simp

theorem mirrorWritten_eng (s : State) : (mirrorWritten s).eng = s.eng := by
  unfold mirrorWritten
  split <;> simp

theorem spotWritten_groups (s : State) : (spotWritten s).eng.groups = s.eng.groups := by
  unfold spotWritten
  dsimp only
  (repeat' split) <;> simp

/-! ### Every step keeps the groups disjoint -/

section
variable {s : State} (ok : GroupsOk s.eng.groups)
include ok

theorem groupsOk_workingStep {f : Held → Request → Option State} (hf : ∀ h r t, f h r = some t → t.eng.groups = s.eng.groups) :
    GroupsOk (workingStep f s).eng.groups :=
  workingStep_ind (P := fun x => GroupsOk x.eng.groups) ok (fun _ _ ht => ht) fun h r t _ e => groupsOk_of_eq ok (hf h r t e)

/-- A boundary kind's command carries out the request that the walker holds, and nothing else. -/
theorem groupsOk_boundaryStep {f : Held → Request → Option State} (hf : ∀ h r t, f h r = some t → applyBoundary h r s = t) :
    GroupsOk (boundaryStep f s).eng.groups :=
  boundaryStep_ind (P := fun x => GroupsOk x.eng.groups) ok (fun _ _ ht => ht) (fun _ => ok)
    fun h r t _ ⟨_, hp, _⟩ e => hf h r t e ▸ groupsOk_applyBoundary ok hp

theorem exec_groupsOk (c : Instr) : ∃ t, exec c s = .next t ∧ GroupsOk t.eng.groups := by
  cases c
  case hardwareReset low => exact ⟨_, rfl, groupsOk_resetUnits s⟩
  case softwareReset data | runSet data | runClear data | resume data | look data | acceptedControlWrite data =>
    exact ⟨_, rfl, groupsOk_controlWrite ok data⟩
  case areaBaseWrite data =>
    refine ⟨_, rfl, groupsOk_of_eq ok ?_⟩
    unfold areaBaseWrite
    (repeat' split) <;> rfl
  case attnEnableWrite data =>
    refine ⟨_, rfl, groupsOk_of_eq ok ?_⟩
    unfold attnEnableWrite
    split <;> rfl
  case attentionRead =>
    refine ⟨_, rfl, groupsOk_of_eq ok ?_⟩
    unfold attentionRead
    split <;> rfl
  case serviceWrite data =>
    refine ⟨_, rfl, groupsOk_of_eq ok ?_⟩
    unfold serviceWrite
    (repeat' split) <;> rfl
  case ignoredRegisterWrite | lateResponse | resetnRise => exact ⟨_, rfl, ok⟩
  case headerReadComplete half => exact ⟨_, rfl, groupsOk_of_eq ok (headerRead_groups half s)⟩
  case errorResponse race | responseLimitExpiry race => exact ⟨_, rfl, groupsOk_racedFault ok _ _ race⟩
  case linkReadComplete link => exact ⟨_, rfl, groupsOk_of_eq ok (by rw [linkRead_eng])⟩
  case blockReadComplete block => exact ⟨_, rfl, groupsOk_of_eq ok (by rw [blockRead_eng])⟩
  case takenWriteComplete => exact ⟨_, rfl, groupsOk_of_eq ok (by rw [takenWritten_eng])⟩
  case resultWriteComplete => exact ⟨_, rfl, groupsOk_of_eq ok (by rw [resultWritten_eng])⟩
  case closedWriteComplete => exact ⟨_, rfl, groupsOk_of_eq ok (by rw [closedWritten_eng])⟩
  case configOutput | setOutputs | givePages | reclaimPages | flushJournal | spot =>
    refine ⟨_, rfl, groupsOk_workingStep ok fun h r t e => ?_⟩
    split at e <;> cases e
    simp
  case configPoint | releasePoint | configGroup | setTiming | recalibrate | reseed | snapshot | mark =>
    refine ⟨_, rfl, groupsOk_boundaryStep ok fun h r t e => ?_⟩
    split at e <;> cases e
    rfl
  case frameTimerExpiry ends => exact ⟨_, rfl, groupsOk_scanEvent ok fun x hx => groupsOk_frameExpiry hx ends⟩
  case scanConversionComplete count ends =>
    exact ⟨_, rfl, groupsOk_scanEvent ok fun x hx => groupsOk_scanConversion hx count ends⟩
  case spotSubconversionComplete count => exact ⟨_, rfl, groupsOk_of_eq ok (by simp)⟩
  case spotWriteComplete => exact ⟨_, rfl, groupsOk_of_eq ok (spotWritten_groups s)⟩
  case snapshotRecordWriteComplete => exact ⟨_, rfl, groupsOk_of_eq ok (by rw [snapshotWritten_eng])⟩
  case journalWriteComplete => exact ⟨_, rfl, groupsOk_of_eq ok (by rw [journalWritten_eng])⟩
  case lingerExpiry => exact ⟨_, rfl, groupsOk_of_eq ok (by simp)⟩
  case mirrorWriteComplete => exact ⟨_, rfl, groupsOk_of_eq ok (by rw [mirrorWritten_eng])⟩
  case enterStopped => exact ⟨_, rfl, groupsOk_of_eq ok (by simp)⟩

end

/-- Settles O57: an empty queue idles, and every command keeps the groups disjoint, whatever the queue's rest. -/
theorem groupsStayDisjoint : Obligations.GroupsStayDisjoint := by
  intro s t ok e
  unfold step at e
  split at e
  · cases e
    exact ok
  · rename_i c rest _
    obtain ⟨u, hu, kept⟩ := exec_groupsOk (s := s.setPending rest) ok c
    rw [hu] at e
    cases e
    exact kept

end Sys2Proof.Machine.PointGroups
end

section
/-! SUPPORT. 07_frames_and_scan_timing.md, proved: a boundary request inside a frame, SET_TIMING and MARK, the reservation, and
what an expiry of the frame timer leads to. -/

namespace Sys2Proof.Machine.FrameTiming

/-! ### Boundary requests by their commands (R31, R121) -/

/-- The commands of the boundary kinds. -/
def boundaryCommands : List Instr :=
  [.configPoint, .releasePoint, .configGroup, .setTiming, .recalibrate, .reseed, .snapshot, .mark]

/-- A boundary kind's command carries out the requests of its kind, by the engine's work on them, and no others. -/
theorem exec_boundaryStep {c : Instr} (hc : c ∈ boundaryCommands) (s : State) :
    ∃ f : Held → Request → Option State, exec c s = .next (boundaryStep f s) ∧
      ∀ h r, f h r = if r.boundaryCommand = some c then some (applyBoundary h r s) else none := by
  simp only [boundaryCommands, List.mem_cons, List.not_mem_nil, or_false] at hc
  rcases hc with rfl | rfl | rfl | rfl | rfl | rfl | rfl | rfl <;>
    exact ⟨_, rfl, fun h r => by cases r <;> simp [Request.boundaryCommand, applyBoundary]⟩

/-- With no request of its kind at the walker the command changes nothing (log entry 3). -/
theorem exec_boundary_other {c : Instr} (hc : c ∈ boundaryCommands) {s : State}
    (other : ∀ h r, s.Awaits h r → r.boundaryCommand ≠ some c) : exec c s = .next s := by
  obtain ⟨f, run, work⟩ := exec_boundaryStep hc s
  rw [run, boundaryStep_none fun h r hw => (work h r).trans (if_neg (other h r hw))]

/-- Inside a frame the walker's request of the command's kind is marked as one that waits. -/
theorem exec_boundary_waits {c : Instr} (hc : c ∈ boundaryCommands) {s : State} {h : Held} {r : Request}
    (inside : s.betweenFrames = false) (hw : s.Awaits h r) (kind : r.boundaryCommand = some c) :
    exec c s = .next (s.walkTo (.awaiting h .waits)) := by
  obtain ⟨f, run, work⟩ := exec_boundaryStep hc s
  rw [run, boundaryStep_waits inside hw ((work h r).trans (if_pos kind))]

theorem betweenFrames_false {s : State} (inside : s.eng.frameState = .scanning ∨ s.eng.frameState = .cutting) :
    s.betweenFrames = false := by
  rcases inside with state | state <;> simp [State.betweenFrames, state]

/-- Settles O25: by whether the walker's request is of the command's kind. -/
theorem boundaryRequestsWait : Obligations.BoundaryRequestsWait := fun _ _ inside hc =>
  ⟨exec_boundary_other hc, fun _ _ hw kind => exec_boundary_waits hc (betweenFrames_false inside) hw kind⟩

/-! ### SET_TIMING and MARK applied (R122, R143) -/

section
variable {s : State} {h : Held} (hb : s.betweenFrames = true)
include hb

theorem exec_setTiming {t : Timing} (hw : s.Awaits h (.setTiming t)) : exec .setTiming s = .next (applySetTiming h t s) := by
  rw [exec_boundary hb hw rfl, applyBoundary, applySetTiming, receiveTogether_answer _ _ (by simp)]

theorem exec_mark_armed {tag : Half} (hw : s.Awaits h (.mark tag)) {m : MarkSlot} (armed : s.eng.mark = some m) :
    exec .mark s = .next (answer h (Answer.refused .markBusy) s) := by
  rw [exec_boundary hb hw rfl, applyBoundary, applyMark, armed, receiveTogether_answer _ _ rfl]

theorem exec_mark_free {tag : Half} (hw : s.Awaits h (.mark tag)) (free : s.eng.mark = none) :
    exec .mark s = .next (answer h (Answer.done 0) (s.setEng { s.eng with mark := some { tag := tag, addr := h.addr } })) := by
  rw [exec_boundary hb hw rfl, applyBoundary, applyMark, free, receiveTogether_answer _ _ (by simp)]

end

/-- Settles O32: SET_TIMING as it stands, and MARK by whether the slot is armed. -/
theorem timingAndMarkApplied : Obligations.TimingAndMarkApplied :=
  ⟨fun _ _ _ hb hw => exec_setTiming hb hw, fun _ _ _ hb hw =>
    ⟨fun free => exec_mark_free hb hw free, fun _ armed => exec_mark_armed hb hw armed⟩⟩

/-! ### The reservation (R114) -/

/-- What the points of a list add to the reservation: 16 bytes for each that is enabled, and 32 if it is verbose. -/
theorem sum_reserve (point : PointId → Point) (ps : List PointId) : (ps.map fun p => (point p).reserve).sum =
    16 * (ps.filter fun p => (point p).enabled && !(point p).cfg.verbose).length +
      32 * (ps.filter fun p => (point p).enabled && (point p).cfg.verbose).length := by
  induction ps with
  | nil => rfl
  | cons p ps ih =>
    rw [List.map_cons, List.sum_cons, ih, Point.reserve, List.filter_cons, List.filter_cons]
    cases (point p).enabled <;> cases (point p).cfg.verbose <;> simp <;> omega

theorem toList_eq_map (points : Vector Point 32) : points.toList = (List.finRange 32).map fun p => points[p] :=
  List.ext_getElem (by simp) fun i _ _ => by simp

theorem reservation_eq (e : ScanEngine) : e.reservation = 16 +
    16 * ((List.finRange 32).filter fun p => (e.points[p]).enabled && !(e.points[p]).cfg.verbose).length +
    32 * ((List.finRange 32).filter fun p => (e.points[p]).enabled && (e.points[p]).cfg.verbose).length +
    (if e.mark.isSome then 16 else 0) := by
  rw [ScanEngine.reservation, toList_eq_map, List.map_map, Function.comp_def, sum_reserve fun p => e.points[p],
    ← Nat.add_assoc 16]

/-! ### An expiry by the state that it finds (R109, R112, R113) -/

theorem exec_frameTimerExpiry (ends : List EndExpiries) (s : State) :
    exec (.frameTimerExpiry ends) s = .next (scanEvent (frameExpiry ends) s) := rfl

/-- An event that touches the scan engine alone leaves no order of receipt open and no image behind. -/
theorem scanEvent_engine {f : State → State} {s : State} {e : ScanEngine} (hf : f s.eventBegun = s.eventBegun.setEng e) :
    scanEvent f s = s.setEng e := by
  have port : (s.eventBegun.setEng e).port.length ≤
      (if (s.eventBegun.setEng e).mir.during = .image then max 1 s.port.length else s.port.length) + 1 := by
    simp only [State.setEng_port, State.eventBegun_keeps]
    split <;> omega
  rw [scanEvent, hf, receiveTogether_one port]
  rfl

theorem frameExpiry_stopped {s : State} (stopped : s.eng.frameTimer = none) (ends : List EndExpiries) : frameExpiry ends s = s := by
  rw [frameExpiry, expire, stopped]

section
variable {s : State} {v : Nat} (timer : s.eng.frameTimer = some v) (ends : List EndExpiries)
include timer

theorem frameExpiry_scanning (state : s.eng.frameState = .scanning) : frameExpiry ends s = s.setEng s.eng.expiredInFrame := by
  rw [frameExpiry, expire, timer, state]

theorem frameExpiry_waiting (state : s.eng.frameState = .waiting) : frameExpiry ends s =
    (finishFrame ends.length ends (admissionCheck (s.setEng s.eng.restarted))).2 := by
  rw [frameExpiry, expire, timer, state]

end

/-- R113 as one update: the mark is set either way, and an expiry that finds it set is merged. -/
theorem expiredInFrame_eq (e : ScanEngine) : e.expiredInFrame = { e with
    frameTimer := some e.period
    frameNumber := e.frameNumber + 1
    startPending := true
    merged := e.merged + (if e.startPending then 1 else 0) } := by
  unfold ScanEngine.expiredInFrame ScanEngine.restarted
  cases e.startPending <;> simp

theorem not_hasRoom {s : State} (empty : s.jrn.queue = [])
    (full : ∀ p, s.jrn.page = some p → 4064 < p.used + s.eng.reservation) : ¬ s.HasRoom := by
  rintro (queued | ⟨page, hp, fits⟩)
  · exact queued empty
  · exact absurd (full page hp) (Nat.not_lt.2 fits)

/-- Settles O34: the reservation counted, and an expiry by the timer, the frame's state and the pool. -/
theorem expiryWithoutFrame : Obligations.ExpiryWithoutFrame := by
  refine ⟨reservation_eq, fun s ends => ⟨fun stopped => ?_, fun v timer period hperiod =>
    ⟨fun state => ?_, fun state empty full => ?_⟩⟩⟩
  · rw [exec_frameTimerExpiry, scanEvent_engine (e := s.eng) (frameExpiry_stopped (s := s.eventBegun) stopped ends)]
    rfl
  · rw [exec_frameTimerExpiry, scanEvent_engine (frameExpiry_scanning (s := s.eventBegun) timer ends state), hperiod]
    exact congrArg (fun e => Host.Outcome.next (s.setEng e)) (expiredInFrame_eq s.eng)
  · have ended := scanEvent_ends (frameExpiry ends) s
    rw [frameExpiry_waiting (s := s.atEvent) timer ends state] at ended
    have skipped := admissionCheck_finishes ends.length ends (s.atEvent.setEng s.eng.restarted) (finishFrame_finishes _)
    rw [hperiod]
    exact ⟨_, _, rfl, (skipped.1 (not_hasRoom (s := s) empty full)).2, ended⟩

/-! ### What the begin of a frame leaves (R115, R132) -/

/-- An admitted reservation leaves a page in the slot, the unit not starved, and no record written. -/
theorem admits_leaves {r : Nat} {frame : Word} {j j' : Journal} (admits : j.Admits r frame j')
    (room : j.queue ≠ [] ∨ ∃ page, j.page = some page ∧ page.used + r ≤ 4064) :
    j'.page ≠ none ∧ j'.starved = false ∧ j'.recordSeq = j.recordSeq := by
  obtain ⟨stays, opens⟩ := admits
  by_cases fits : ∃ page, j.page = some page ∧ page.used + r ≤ 4064
  · obtain ⟨page, hp, fit⟩ := fits
    rw [stays page hp fit]
    simp [hp]
  · obtain ⟨a, rest, hq⟩ := List.exists_cons_of_ne_nil (room.resolve_right fits)
    obtain ⟨empty, full⟩ := opens a rest hq
    rcases hp : j.page with _ | page
    · rw [empty hp]
      simp [Journal.opened]
    · rw [full page hp (Nat.lt_of_not_le fun fit => fits ⟨page, hp, fit⟩)]
      simp [Journal.opened, Journal.closed]

/-- Of the engine the begin of a frame changes the frame's own items and, where an armed recalibrate is taken or a conversion
granted, the points (R115, R67, R59). -/
theorem frameBegun_eng {s b : State} (begun : s.FrameBegun b) : b.eng = { s.eng with
    frameState := .scanning, frameInProgress := s.eng.frameNumber, gap := 0, startPending := false, mark := none
    slot := b.eng.slot, points := b.eng.points } := by
  obtain ⟨_, _, _, _, _, _, _, _, _, _, slots⟩ := begun
  obtain ⟨noSlot, firstSlot⟩ := slots _ rfl
  by_cases idle : s.NoSlot
  · rw [noSlot idle]
    rfl
  · obtain ⟨q, first⟩ := State.firstSlot_of_not_noSlot idle
    obtain ⟨-, eng, -⟩ := firstSlot q first
    have slot : b.eng.slot = some q := congrArg ScanEngine.slot eng
    rw [slot]
    exact eng

/-- A frame just begun has written its GAP record and its MARK record, and the unit is not starved. -/
theorem frameBegun_jrn {s b : State} (room : s.HasRoom) (begun : s.FrameBegun b) (clear : s.eng.startPending = false) :
    b.jrn.starved = false ∧
    b.jrn.recordSeq = s.jrn.recordSeq + (if s.eng.gap = 0 then 0 else 1) + (if s.eng.mark.isSome then 1 else 0) := by
  obtain ⟨j0, j1, gap, admits, hgap, noGap, someGap, noMark, someMark, -⟩ := begun
  have same : gap = s.eng.gap := by simpa [clear] using hgap
  obtain ⟨slot, starved, seq⟩ := admits_leaves admits room
  obtain ⟨page, hp⟩ := Option.ne_none_iff_exists'.1 slot
  have gapped : j1.page ≠ none ∧ j1.starved = false ∧ j1.recordSeq = s.jrn.recordSeq + (if s.eng.gap = 0 then 0 else 1) := by
    by_cases zero : s.eng.gap = 0
    · rw [noGap (same.trans zero), if_pos zero, seq]
      exact ⟨slot, starved, (BitVec.add_zero _).symm⟩
    · rw [someGap (same ▸ zero) page hp, if_neg zero, ← seq]
      exact ⟨Option.some_ne_none _, starved, rfl⟩
  obtain ⟨slot, starved, seq⟩ := gapped
  obtain ⟨page, hp⟩ := Option.ne_none_iff_exists'.1 slot
  rw [← seq]
  rcases hm : s.eng.mark with _ | m
  · rw [noMark hm]
    exact ⟨starved, (BitVec.add_zero _).symm⟩
  · rw [someMark m hm page hp]
    exact ⟨starved, rfl⟩

/-! ### What the end of a frame leaves, with no expiry inside it (R119) -/

/-- A frame's end closes the frame, and writes no record. -/
theorem frameOver_leaves {j j' : Journal} (told : j.FrameOver j') :
    j'.frameOpen = false ∧ j'.starved = j.starved ∧ j'.recordSeq = j.recordSeq := by
  obtain ⟨unmarked, linger, flush⟩ := told
  rcases hm : j.closeMark with _ | _ | _
  · obtain ⟨grown, same⟩ := unmarked hm
    by_cases grew : ∃ page, j.page = some page ∧ page.grew = true
    · obtain ⟨page, hp, grew⟩ := grew
      rw [grown page hp grew]
      exact ⟨rfl, rfl, rfl⟩
    · rw [same fun page hp => by simpa using fun g => grew ⟨page, hp, g⟩]
      exact ⟨rfl, rfl, rfl⟩
  · obtain ⟨closes, empty⟩ := linger hm
    rcases hp : j.page with _ | page
    · rw [empty hp]
      exact ⟨rfl, rfl, rfl⟩
    · rw [closes page hp]
      exact ⟨rfl, rfl, rfl⟩
  · obtain ⟨closes, empty⟩ := flush hm
    by_cases held : ∃ page, j.page = some page ∧ page.count ≠ 0
    · obtain ⟨page, hp, count⟩ := held
      rw [closes page hp count]
      exact ⟨rfl, rfl, rfl⟩
    · rw [empty fun page hp => Decidable.byContradiction fun count => held ⟨page, hp, count⟩]
      exact ⟨rfl, rfl, rfl⟩

/-- A boundary request touches no item of the journal unit but the linger length, SET_TIMING's (R122). -/
theorem applyBoundary_jrn (h : Held) (r : Request) (s : State) :
    (applyBoundary h r s).jrn = { s.jrn with linger := (applyBoundary h r s).jrn.linger } := by
  cases r with
  | setTiming t => simp [applyBoundary, applySetTiming]
  | _ => simp [applyBoundary]

theorem applyWaiting_jrn (s : State) : (applyWaiting s).jrn = { s.jrn with linger := (applyWaiting s).jrn.linger } := by
  unfold applyWaiting
  split
  · exact applyBoundary_jrn _ _ s
  · rfl

/-- The journal unit at a frame's end: told that the frame is over, and then SET_TIMING's linger length if that waited. -/
theorem endFrame_jrn (s : State) : (endFrame s).jrn.frameOpen = false ∧ (endFrame s).jrn.starved = s.jrn.starved ∧
    (endFrame s).jrn.recordSeq = s.jrn.recordSeq := by
  have left : s.jrn.FrameOver (leaveScanning .zero s).jrn := by
    simpa [leaveScanning] using journalFrameOver_jrn (expiriesInFrame EndExpiries.zero.judged (s.setEng s.eng.judge))
  rw [endFrame, applyWaiting_jrn]
  obtain ⟨closed, starved, seq⟩ := frameOver_leaves left
  exact ⟨closed, starved, seq⟩

/-- The engine at a frame's end: in WAITING, the merged expiries counted. -/
theorem endFrame_eng (s : State) : (endFrame s).eng.frameState = .waiting ∧ (endFrame s).eng.gap = s.eng.gap + s.eng.merged ∧
    (endFrame s).eng.frameNumber = s.eng.frameNumber ∧ (endFrame s).eng.frameInProgress = s.eng.frameInProgress := by
  obtain ⟨judge, -⟩ := judge_judges s
  have judged : s.eng.judge.gap = s.eng.gap ∧ s.eng.judge.merged = s.eng.merged ∧ s.eng.judge.frameNumber = s.eng.frameNumber ∧
      s.eng.judge.frameInProgress = s.eng.frameInProgress := by
    rw [judge]
    exact ⟨rfl, rfl, rfl, rfl⟩
  simp [endFrame, leaveScanning, EndExpiries.zero, expiriesCounted, expiriesInFrame, addMerged, judged]

/-- With no start pending a frame that is done ends, and no other begins in the event. -/
theorem finishFrame_plain {s : State} (done : s.frameDone = true) (clear : s.eng.startPending = false) :
    (finishFrame 0 [] s).2 = endFrame s := by
  simp [finishFrame, finishPlain, done, endFrame_startPending, clear]

/-! ### An expiry that begins a frame (R112, R115, R119) -/

section
variable {w b : State} (begun : w.FrameBegun b) (ends : List EndExpiries)
include begun

theorem finishFrame_busy (busy : ¬ w.NoSlot) : (finishFrame ends.length ends b).2 = b := by
  rw [finishFrame_notDone _ _ (Bool.eq_false_iff.2 fun done => busy (begun.frameDone.1 done))]

/-- With no expiry placed inside its end, a frame without a slot that converts ends at once, and no other begins. -/
theorem finishFrame_empty (idle : w.NoSlot) : (finishFrame 0 [] b).2 = endFrame b :=
  finishFrame_plain (begun.frameDone.2 idle) (by rw [frameBegun_eng begun])

/-- A frame that ends in the event with no expiry inside its end keeps its number, leaves no gap, and leaves of the journal
unit what its begin left, as one that goes on does. -/
theorem finishFrame_begun (plain : ends = [] ∨ ¬ w.NoSlot) {x : State} (hx : x = (finishFrame ends.length ends b).2) :
    x.eng.frameNumber = w.eng.frameNumber ∧ x.eng.frameInProgress = w.eng.frameNumber ∧ (w.eng.merged = 0 → x.eng.gap = 0) ∧
    x.jrn.starved = b.jrn.starved ∧ x.jrn.recordSeq = b.jrn.recordSeq ∧
    (w.NoSlot → x.eng.frameState = .waiting ∧ x.jrn.frameOpen = false) := by
  have eng := frameBegun_eng begun
  subst hx
  by_cases idle : w.NoSlot
  · rw [plain.resolve_right (not_not_intro idle), List.length_nil, finishFrame_empty begun idle]
    obtain ⟨state, gap, number, progress⟩ := endFrame_eng b
    obtain ⟨closed, starved, seq⟩ := endFrame_jrn b
    refine ⟨?_, ?_, fun unmerged => ?_, starved, seq, fun _ => ⟨state, closed⟩⟩
    · rw [number, eng]
    · rw [progress, eng]
    · rw [gap, eng, unmerged]
      rfl
  · rw [finishFrame_busy begun ends idle, eng]
    exact ⟨rfl, rfl, fun _ => rfl, rfl, rfl, fun all => absurd all idle⟩

end

/-- Settles O35: the admission check finds room, and the frame that it begins goes on, or ends in the event. -/
theorem expiryBeginsFrame : Obligations.ExpiryBeginsFrame := by
  refine ⟨slotRules, journalLayouts, fun s ends v timer state room period hperiod => ?_⟩
  subst hperiod
  have begun := admissionCheck_begins (s := s.atEvent.setEng s.eng.restarted) room
  have ended := scanEvent_ends (frameExpiry ends) s
  rw [frameExpiry_waiting (s := s.atEvent) timer ends state] at ended
  obtain ⟨eng, -, jrn⟩ := SensePoints.eventEnds_keeps ended
  refine ⟨_, _, _, rfl, begun, finishFrame_busy begun ends,
    fun idle => ⟨_, finishFrame_finishes _ ends _ (begun.frameDone.2 idle)⟩, ended, by simp, by simp,
    fun plain => ?_, fun plain clear unmerged => ?_⟩
  · rw [eng]
    exact (finishFrame_begun begun ends plain rfl).1
  · obtain ⟨-, progress, gap, starved, seq, atOnce⟩ := finishFrame_begun begun ends plain rfl
    obtain ⟨fed, records⟩ := frameBegun_jrn (s := s.atEvent.setEng s.eng.restarted) room begun clear
    rw [eng, jrn]
    exact ⟨progress, starved.trans fed, gap unmerged, seq.trans records, atOnce⟩

end Sys2Proof.Machine.FrameTiming
end

section
/-! SUPPORT. 08_the_event_journal.md, proved: the page pool and the requests that give and take its pages, what closes a page, and
what follows the journal unit's and the mirror writer's writes. -/

namespace Sys2Proof.Machine.EventJournal

/-! ### The pool (R126) -/

/-- The pages of the pool: those queued, and the one in the slot. -/
def pool (j : Journal) : List Word := j.queue ++ j.page.toList.map OpenPage.addr

theorem poolOk_iff (j : Journal) : j.PoolOk ↔
    j.queue.length ≤ 16 ∧ (pool j).Nodup ∧ ∀ a ∈ pool j, a ≠ 0 ∧ a.toNat % 4096 = 0 := by
  unfold Journal.PoolOk pool
  cases j.page <;> rfl

theorem mem_pool {j : Journal} {a : Word} : a ∈ pool j ↔ a ∈ j.queue ∨ ∃ p, j.page = some p ∧ p.addr = a := by
  simp [pool]

theorem inPool_iff (j : Journal) (a : Word) : j.inPool a = true ↔ a ∈ pool j := by
  rw [mem_pool, Journal.inPool]
  cases j.page <;> simp

/-! ### GIVE_PAGES and RECLAIM_PAGES (R140, R141) -/

section
variable {s : State} {h : Held} {pages : List Word}

theorem applyGivePages_refuses (full : 16 < s.jrn.queue.length + pages.length ∨ ∃ a ∈ pages, a ∈ pool s.jrn) :
    applyGivePages h pages s = answer h (Answer.refused .poolFull) s :=
  if_pos (full.imp id fun held => List.any_eq_true.2 (by simpa only [inPool_iff] using held))

theorem applyGivePages_takes (room : s.jrn.queue.length + pages.length ≤ 16) (fresh : ∀ a ∈ pages, a ∉ pool s.jrn) :
    applyGivePages h pages s = answer h (Answer.done (BitVec.ofNat 32 (s.jrn.queue.length + pages.length)))
      (s.setJrn { s.jrn with queue := s.jrn.queue ++ pages }) := by
  have free : ¬ (Config.queueLimit < s.jrn.queue.length + pages.length ∨ pages.any s.jrn.inPool = true) := by
    rintro (full | held)
    · exact absurd room (Nat.not_le.2 full)
    · obtain ⟨a, ha, held⟩ := List.any_eq_true.1 held
      exact fresh a ha ((inPool_iff _ a).1 held)
  rw [← List.length_append]
  exact if_neg free

theorem exec_givePages (hw : s.Working h (.givePages pages)) : exec .givePages s = .next (applyGivePages h pages s) := by
  refine congrArg Host.Outcome.next ((workingStep_eq hw rfl).trans ?_)
  unfold applyGivePages
  split
  · exact receiveTogether_answer _ _ rfl
  · exact receiveTogether_answer _ _ rfl

theorem exec_reclaimPages {limit : Nat} (hw : s.Working h (.reclaimPages limit)) :
    exec .reclaimPages s = .next (applyReclaimPages h limit s) :=
  congrArg Host.Outcome.next ((workingStep_eq hw rfl).trans (receiveTogether_answer _ _ rfl))

end

/-- The answer of RECLAIM_PAGES counts the pages that stay by those that it took. -/
theorem length_drop_eq (limit : Nat) (queue : List Word) :
    (queue.drop limit).length = queue.length - (queue.take limit).length := by
  simp only [List.length_drop, List.length_take]
  omega

/-- Settles O23: GIVE_PAGES by whether the pool has room for pages that are all new to it. -/
theorem pageRequestsApplied : Obligations.PageRequestsApplied := by
  refine fun s h => ⟨fun pages hw => ⟨fun full => ?_, fun room fresh => ?_⟩, fun limit hw taken ht => ?_⟩
  · simp only [← mem_pool] at full
    rw [exec_givePages hw, applyGivePages_refuses full]
    rfl
  · have new : ∀ a ∈ pages, a ∉ pool s.jrn := fun a ha held => by
      obtain ⟨unqueued, unopened⟩ := fresh a ha
      rcases mem_pool.1 held with queued | ⟨p, hp, same⟩
      · exact unqueued queued
      · exact unopened p hp same
    rw [exec_givePages hw, applyGivePages_takes room new]
    rfl
  · rw [exec_reclaimPages hw, applyReclaimPages, reclaimParams, length_drop_eq, ht]

/-! ### The journal unit's operations add no page to the pool (R126, R132, R135) -/

/-- `j'` is `j` with no page added: its queue is what is left behind pages taken from the front, and its pool holds pages of
`j`'s pool, none of them oftener than that does. -/
def AddsNoPage (j j' : Journal) : Prop := j'.queue <:+ j.queue ∧ ∀ a, (pool j').count a ≤ (pool j).count a

@[simp] theorem addsNoPage_refl (j : Journal) : AddsNoPage j j := ⟨List.suffix_refl _, fun _ => Nat.le_refl _⟩

theorem AddsNoPage.trans {j k l : Journal} (first : AddsNoPage j k) (second : AddsNoPage k l) : AddsNoPage j l :=
  ⟨second.1.trans first.1, fun a => Nat.le_trans (second.2 a) (first.2 a)⟩

theorem addsNoPage_of_eq {j j' : Journal} (queue : j'.queue = j.queue)
    (slot : j'.page.map OpenPage.addr = j.page.map OpenPage.addr) : AddsNoPage j j' := by
  have same : pool j' = pool j := by simp only [pool, ← Option.toList_map, queue, slot]
  exact ⟨queue ▸ List.suffix_refl _, fun a => Nat.le_of_eq (congrArg (List.count a) same)⟩

theorem addsNoPage_of_kept {s t : State} (kept : t.jrn = s.jrn) : AddsNoPage s.jrn t.jrn := kept ▸ addsNoPage_refl _

/-- A pool without new pages is as sound as it was. -/
theorem AddsNoPage.poolOk {j j' : Journal} (adds : AddsNoPage j j') (ok : j.PoolOk) : j'.PoolOk := by
  obtain ⟨length, nodup, aligned⟩ := (poolOk_iff j).1 ok
  obtain ⟨queue, counts⟩ := adds
  refine (poolOk_iff j').2 ⟨Nat.le_trans queue.length_le length,
    List.nodup_iff_count.2 fun a => Nat.le_trans (counts a) (List.nodup_iff_count.1 nodup a), fun a ha => aligned a ?_⟩
  exact List.count_pos_iff.1 (Nat.lt_of_lt_of_le (List.count_pos_iff.2 ha) (counts a))

theorem addsNoPage_closed (j : Journal) (page : OpenPage) (cause : CloseCause) : AddsNoPage j (j.closed page cause) := by
  have slotless : pool (j.closed page cause) = j.queue := List.append_nil _
  exact ⟨List.suffix_refl _, fun a => slotless ▸ (List.sublist_append_left j.queue _).count_le a⟩

/-- The front page of the queue moves to the slot. -/
theorem addsNoPage_opened {j : Journal} {a : Word} {rest : List Word} (queue : j.queue = a :: rest) (empty : j.page = none)
    (frame : Word) : AddsNoPage j (j.opened a rest frame) := by
  have moved : pool (j.opened a rest frame) = rest ++ [a] := rfl
  have before : pool j = a :: rest := by simp [pool, queue, empty]
  refine ⟨queue ▸ List.suffix_cons a rest, fun b => ?_⟩
  rw [moved, before]
  exact Nat.le_of_eq ((List.perm_append_singleton a rest).count_eq b)

theorem addsNoPage_closePage (cause : CloseCause) (s : State) : AddsNoPage s.jrn (closePage cause s).jrn := by
  rcases hp : s.jrn.page with _ | page
  · rw [closePage_none hp]
    exact addsNoPage_refl _
  · rw [closePage_jrn hp]
    exact addsNoPage_closed _ _ _

theorem closePage_page (cause : CloseCause) (s : State) : (closePage cause s).jrn.page = none := by
  rcases hp : s.jrn.page with _ | page
  · rw [closePage_none hp, hp]
  · rw [closePage_jrn hp]
    rfl

theorem addsNoPage_append (r : Record) (s : State) : AddsNoPage s.jrn (append r s).jrn := by
  rcases hp : s.jrn.page with _ | page
  · rw [append_none hp]
    exact addsNoPage_refl _
  · rw [append_jrn hp]
    exact addsNoPage_of_eq rfl (by simp [Journal.appended, hp])

theorem addsNoPage_writeCount (s : State) : AddsNoPage s.jrn (writeCount s).jrn := by
  unfold writeCount
  split
  · exact addsNoPage_refl _
  · rename_i page hp
    split
    · rw [pushJournal_jrn]
      exact addsNoPage_of_eq rfl (by simp [hp])
    · exact addsNoPage_refl _

theorem addsNoPage_journalFrameOver (s : State) : AddsNoPage s.jrn (journalFrameOver s).jrn := by
  have told : AddsNoPage s.jrn { s.jrn with frameOpen := false, closeMark := .none } := addsNoPage_of_eq rfl rfl
  unfold journalFrameOver
  split
  · exact told.trans (addsNoPage_writeCount _)
  · exact told.trans (addsNoPage_closePage _ _)
  · split
    · exact told.trans (addsNoPage_closePage _ _)
    · simpa using told

theorem addsNoPage_lingerExpires (s : State) : AddsNoPage s.jrn (lingerExpires s).jrn := by
  have stopped : AddsNoPage s.jrn { s.jrn with lingerTimer := none } := addsNoPage_of_eq rfl rfl
  unfold lingerExpires
  split
  · exact addsNoPage_refl _
  · dsimp only
    split
    · exact stopped
    · exact stopped.trans (addsNoPage_closePage _ _)

/-- Steps 3 and 4 of R132. -/
theorem addsNoPage_openOrStarve {s : State} (empty : s.jrn.page = none) : AddsNoPage s.jrn (openOrStarve s).2.jrn := by
  unfold openOrStarve
  split
  · rename_i a rest queue
    rw [openPage_jrn]
    exact addsNoPage_opened queue empty _
  · unfold starve
    split
    · exact addsNoPage_refl _
    · exact addsNoPage_of_eq rfl rfl

theorem addsNoPage_askRoom (r : Nat) (s : State) : AddsNoPage s.jrn (askRoom r s).2.jrn := by
  unfold askRoom
  split
  · split
    · exact addsNoPage_of_eq rfl rfl
    · exact (addsNoPage_closePage _ _).trans (addsNoPage_openOrStarve (closePage_page _ _))
  · rename_i empty
    exact addsNoPage_openOrStarve empty

theorem addsNoPage_applyFlushJournal (h : Held) (s : State) : AddsNoPage s.jrn (applyFlushJournal h s).jrn := by
  unfold applyFlushJournal
  split
  · exact addsNoPage_of_eq rfl rfl
  · split
    · exact addsNoPage_closePage _ (s.walkTo (.workingFlush h))
    · simp

theorem addsNoPage_applyReclaimPages (h : Held) (limit : Nat) (s : State) :
    AddsNoPage s.jrn (applyReclaimPages h limit s).jrn := by
  have left : (applyReclaimPages h limit s).jrn = { s.jrn with queue := s.jrn.queue.drop limit } := by simp [applyReclaimPages]
  rw [left]
  exact ⟨List.drop_suffix _ _, fun a => ((List.drop_sublist _ _).append_right _).count_le a⟩

/-! ### Frames take pages from the pool only (R115, R119, R123) -/

theorem addsNoPage_reportGap (s : State) : AddsNoPage s.jrn (reportGap s).jrn := by
  unfold reportGap
  split
  · exact addsNoPage_refl _
  · exact addsNoPage_append _ _

theorem addsNoPage_reportMark (s : State) : AddsNoPage s.jrn (reportMark s).jrn := by
  unfold reportMark
  split
  · exact addsNoPage_refl _
  · exact addsNoPage_append _ _

theorem addsNoPage_beginFrame (s : State) : AddsNoPage s.jrn (beginFrame s).jrn := by
  have begun : (beginFrame s).jrn = (reportMark (reportGap (enterFrame s))).jrn := by simp [beginFrame]
  rw [begun]
  exact (addsNoPage_reportGap (enterFrame s)).trans (addsNoPage_reportMark _)

theorem addsNoPage_admissionCheck (s : State) : AddsNoPage s.jrn (admissionCheck s).jrn := by
  have asked := addsNoPage_askRoom s.eng.reservation s
  unfold admissionCheck
  split
  all_goals
    rename_i t ht
    rw [ht] at asked
  · exact asked.trans (addsNoPage_beginFrame t)
  · simpa using asked

theorem addsNoPage_leaveScanning (x : EndExpiries) (s : State) : AddsNoPage s.jrn (leaveScanning x s).jrn := by
  simpa [leaveScanning] using addsNoPage_journalFrameOver (expiriesInFrame x.judged (s.setEng s.eng.judge))

theorem addsNoPage_applyBoundary (h : Held) (r : Request) (s : State) : AddsNoPage s.jrn (applyBoundary h r s).jrn :=
  addsNoPage_of_eq (by rw [FrameTiming.applyBoundary_jrn]) (by rw [FrameTiming.applyBoundary_jrn])

theorem addsNoPage_applyWaiting (s : State) : AddsNoPage s.jrn (applyWaiting s).jrn := by
  unfold applyWaiting
  split
  · exact addsNoPage_applyBoundary _ _ s
  · exact addsNoPage_refl _

theorem addsNoPage_applyReached (s : State) : AddsNoPage s.jrn (applyReached s).jrn := by
  unfold applyReached
  split
  · exact addsNoPage_applyWaiting s
  · exact addsNoPage_refl _

theorem addsNoPage_reachEngine (s : State) : AddsNoPage s.jrn (reachEngine s).jrn := by
  unfold reachEngine
  split
  · exact addsNoPage_applyWaiting s
  · exact addsNoPage_refl _

theorem addsNoPage_endFrame (s : State) : AddsNoPage s.jrn (endFrame s).jrn :=
  (addsNoPage_leaveScanning _ s).trans (addsNoPage_applyWaiting _)

theorem addsNoPage_finishPlain (s : State) : AddsNoPage s.jrn (finishPlain s).jrn := by
  have ended := addsNoPage_endFrame s
  have begun := ended.trans
    (addsNoPage_admissionCheck ((endFrame s).setEng { (endFrame s).eng with startPending := false }))
  unfold finishPlain
  dsimp only
  split
  · split
    · split
      · exact begun.trans (addsNoPage_endFrame _)
      · exact begun
    · exact ended
  · exact addsNoPage_refl _

section
variable {finish : List EndExpiries → State → List EndExpiries × State}
  (finishes : ∀ (l : List EndExpiries) (x : State), AddsNoPage x.jrn (finish l x).2.jrn)
include finishes

/-- An expiry adds no page if the end of a frame that it begins does not. -/
theorem addsNoPage_expire (ends : List EndExpiries) (s : State) : AddsNoPage s.jrn (expire finish ends s).2.jrn := by
  unfold expire
  split
  · exact addsNoPage_refl _
  · split
    · exact (addsNoPage_admissionCheck (s.setEng s.eng.restarted)).trans (finishes _ _)
    all_goals exact addsNoPage_refl _

theorem addsNoPage_expireTimes : ∀ (n : Nat) (ends : List EndExpiries) (s : State),
    AddsNoPage s.jrn (expireTimes finish n ends s).2.jrn
  | 0, _, _ => addsNoPage_refl _
  | n + 1, ends, s => (addsNoPage_expire finishes ends s).trans (addsNoPage_expireTimes n _ _)

end

theorem addsNoPage_finishFrame : ∀ (n : Nat) (ends : List EndExpiries) (s : State),
    AddsNoPage s.jrn (finishFrame n ends s).2.jrn
  | 0, _, s => addsNoPage_finishPlain s
  | _ + 1, [], s => addsNoPage_finishPlain s
  | n + 1, x :: xs, s => by
    have finishes := addsNoPage_finishFrame n
    unfold finishFrame
    dsimp only
    split
    · have reached := (addsNoPage_leaveScanning x s).trans (addsNoPage_applyReached _)
      have expired := reached.trans (addsNoPage_expireTimes finishes x.unreached xs _)
      generalize expireTimes (finishFrame n) x.unreached xs _ = r at expired ⊢
      have left := (expired.trans (addsNoPage_reachEngine r.2)).trans (addsNoPage_expireTimes finishes x.left r.1 _)
      generalize expireTimes (finishFrame n) x.left r.1 _ = r' at left ⊢
      split
      · exact (left.trans (addsNoPage_admissionCheck (r'.2.setEng { r'.2.eng with startPending := false }))).trans
          (finishes _ _)
      · exact left
    · exact addsNoPage_refl _

theorem addsNoPage_frameExpiry (ends : List EndExpiries) (s : State) : AddsNoPage s.jrn (frameExpiry ends s).jrn :=
  addsNoPage_expire (addsNoPage_finishFrame _) ends s

theorem addsNoPage_cutEnd (s : State) : AddsNoPage s.jrn (cutEnd s).jrn :=
  (addsNoPage_journalFrameOver s).trans (addsNoPage_applyWaiting (leaveCut s))

theorem addsNoPage_measurePoint (p : PointId) (c : Half) (s : State) : AddsNoPage s.jrn (measurePoint p c s).jrn := by
  unfold measurePoint appendSome
  simp only [raiseTrip_keeps]
  split
  · simpa using addsNoPage_append _ (s.updatePoint p _)
  · simp

theorem addsNoPage_scanConversion (c : Half) (ends : List EndExpiries) (s : State) :
    AddsNoPage s.jrn (scanConversion c ends s).jrn := by
  unfold scanConversion
  dsimp only
  split
  · rename_i p _ _
    have released : AddsNoPage s.jrn (releaseConverter (measurePoint p c s)).jrn := by
      simpa using addsNoPage_measurePoint p c s
    split
    · have begun : AddsNoPage s.jrn (runSlots (pointsAfter p) (releaseConverter (measurePoint p c s))).jrn := by
        simpa using released
      exact begun.trans (addsNoPage_finishFrame _ _ _)
    · exact released.trans (addsNoPage_cutEnd _)
    · exact released
    · exact released
  · exact addsNoPage_refl _

theorem addsNoPage_scanEvent {f : State → State} (adds : ∀ x : State, AddsNoPage x.jrn (f x).jrn) (s : State) :
    AddsNoPage s.jrn (scanEvent f s).jrn := by
  simpa using adds s.eventBegun

/-! ### The stop order, resets and memory faults (R123, R147, R146) -/

theorem addsNoPage_stopScan (s : State) : AddsNoPage s.jrn (stopScan s).jrn := by
  have cut := addsNoPage_cutEnd (withdrawScan (s.setEng { s.eng with frameTimer := none }))
  unfold stopScan
  dsimp only
  split
  · exact addsNoPage_refl _
  · split
    · exact addsNoPage_refl _
    · exact cut
    · exact cut
  · exact addsNoPage_refl _
  · exact addsNoPage_refl _

theorem addsNoPage_stopOrder (s : State) : AddsNoPage s.jrn (stopOrder s).jrn := by
  simpa [stopOrder] using
    addsNoPage_stopScan (s.setCtl { s.ctl with op := .stopping, run := false, refusedWrite := false })

theorem addsNoPage_changeRun (s : State) : AddsNoPage s.jrn (changeRun s).jrn := by
  unfold changeRun
  split
  case h_2 => exact addsNoPage_stopOrder s
  all_goals simp

theorem addsNoPage_resetUnits (s : State) : AddsNoPage s.jrn (resetUnits s).jrn := ⟨List.nil_suffix, fun _ => Nat.zero_le _⟩

theorem addsNoPage_controlWrite (data : Word) (s : State) : AddsNoPage s.jrn (controlWrite data s).jrn := by
  unfold controlWrite
  split
  · exact addsNoPage_refl _
  split
  · exact addsNoPage_resetUnits s
  split
  · simp
  · exact addsNoPage_changeRun s

theorem addsNoPage_memoryFault (kind : FaultKind) (cause : Cause) (s : State) :
    AddsNoPage s.jrn (memoryFault kind cause s).jrn := by
  unfold memoryFault
  split
  · exact addsNoPage_refl _
  · exact addsNoPage_of_eq (by simp [faultUnits]) (by simp [faultUnits])

theorem addsNoPage_carryOut (e : ScanEvent) (s : State) : AddsNoPage s.jrn (carryOut e s).jrn := by
  cases e with
  | scanConversion c ends => exact addsNoPage_scanEvent (addsNoPage_scanConversion c ends) s
  | frameExpiry ends => exact addsNoPage_scanEvent (addsNoPage_frameExpiry ends) s
  | boundary =>
    rw [carryOut]
    split
    · exact addsNoPage_applyWaiting s
    · exact addsNoPage_refl _
  | stopOrder =>
    rw [carryOut]
    split
    · exact addsNoPage_stopOrder s
    · exact addsNoPage_refl _

theorem addsNoPage_racedFault (kind : FaultKind) (cause : Cause) (race : Option FaultRace) (s : State) :
    AddsNoPage s.jrn (racedFault kind cause race s).jrn := by
  unfold racedFault
  split
  · exact addsNoPage_refl _
  · exact addsNoPage_memoryFault _ _ s
  · rename_i r _
    exact (addsNoPage_carryOut r.event (s.setOut { s.out with entryAfter := some r.taken })).trans
      (addsNoPage_memoryFault _ _ (beforeFault r s))

/-! ### The accesses and the other units leave the journal unit's pages alone -/

theorem headerRead_jrn (half : Vector Word 8) (s : State) : (headerRead half s).jrn = s.jrn := by
  unfold headerRead
  (repeat' split) <;> simp

theorem linkRead_jrn (link : Word) (s : State) : (linkRead link s).jrn = s.jrn := by
  unfold linkRead
  (repeat' split) <;> simp

theorem blockRead_jrn (block : Vector Word 16) (s : State) : (blockRead block s).jrn = s.jrn := by
  unfold blockRead
  (repeat' split) <;> simp

theorem takenWritten_jrn (s : State) : (takenWritten s).jrn = s.jrn := by
  unfold takenWritten
  (repeat' split) <;> simp

theorem resultWritten_jrn (s : State) : (resultWritten s).jrn = s.jrn := by
  unfold resultWritten
  (repeat' split) <;> simp

theorem closedWritten_jrn (s : State) : (closedWritten s).jrn = s.jrn := by
  unfold closedWritten
  (repeat' split) <;> simp

theorem spotWritten_jrn (s : State) : (spotWritten s).jrn = s.jrn := by
  unfold spotWritten
  dsimp only
  (repeat' split) <;> simp

theorem snapshotWritten_jrn (s : State) : (snapshotWritten s).jrn = s.jrn := by
  unfold snapshotWritten
  dsimp only
  (repeat' split) <;> simp

theorem mirrorWritten_jrn (s : State) : (mirrorWritten s).jrn = s.jrn := by
  unfold mirrorWritten
  split <;> simp

/-- The write that completes leaves the journal unit's list, and nothing else of the unit changes. -/
theorem nextJournalWrite_jrn (s : State) : (nextJournalWrite s).jrn = { s.jrn with writes := s.jrn.writes.tail } := by
  unfold nextJournalWrite
  rcases s.jrn.writes with _ | ⟨w, _ | ⟨x, rest⟩⟩ <;> simp

theorem addsNoPage_journalWritten (s : State) : AddsNoPage s.jrn (journalWritten s).jrn := by
  have next : AddsNoPage s.jrn (nextJournalWrite (retire s)).jrn := by
    rw [nextJournalWrite_jrn]
    exact addsNoPage_of_eq (by simp) (by simp)
  unfold journalWritten
  split
  · split
    · simp only [receiveTogether_keeps]
      split
      · simpa using next
      · exact next
    · exact addsNoPage_refl _
  · exact addsNoPage_refl _

/-! ### Every step keeps the pool sound -/

/-- The walker's checks hold the pages of a GIVE_PAGES to R139. -/
theorem pages_of_parse {b : Vector Word 16} {pages : List Word} (hp : parse b = .ok (.givePages pages)) :
    pages.Nodup ∧ ∀ a ∈ pages, a ≠ 0 ∧ a.toNat % 4096 = 0 := by
  obtain ⟨-, -, -, reads⟩ := parse_reads b
  obtain ⟨⟨kind, -⟩, -⟩ := reads _ hp
  have read := parse_eq_ok.1 hp
  simp only [contentOf, kind, Option.some.injEq] at read
  exact givePagesOf_ok read

section
variable {s : State} (ok : s.jrn.PoolOk)
include ok

/-- Pages that are new to the pool, all different and at page addresses, join it in the room that its limit leaves. -/
theorem poolOk_queued {pages : List Word} (room : s.jrn.queue.length + pages.length ≤ 16) (fresh : ∀ a ∈ pages, a ∉ pool s.jrn)
    (nodup : pages.Nodup) (aligned : ∀ a ∈ pages, a ≠ 0 ∧ a.toNat % 4096 = 0) :
    ({ s.jrn with queue := s.jrn.queue ++ pages } : Journal).PoolOk := by
  obtain ⟨-, once, placed⟩ := (poolOk_iff _).1 ok
  have perm : (pool { s.jrn with queue := s.jrn.queue ++ pages }).Perm (pages ++ pool s.jrn) := by
    simpa [pool] using List.perm_append_comm_assoc s.jrn.queue pages _
  refine (poolOk_iff _).2 ⟨by simpa using room, perm.nodup_iff.2 ?_, fun a ha => ?_⟩
  · exact List.nodup_append.2 ⟨nodup, once, fun a given b held same => fresh a given (same ▸ held)⟩
  rcases List.mem_append.1 (perm.mem_iff.1 ha) with given | held
  · exact aligned a given
  · exact placed a held

theorem poolOk_applyGivePages {h : Held} {pages : List Word} (hp : parse h.block = .ok (.givePages pages)) :
    (applyGivePages h pages s).jrn.PoolOk := by
  obtain ⟨nodup, aligned⟩ := pages_of_parse hp
  by_cases full : 16 < s.jrn.queue.length + pages.length ∨ ∃ a ∈ pages, a ∈ pool s.jrn
  · rw [applyGivePages_refuses full]
    simpa using ok
  · obtain ⟨room, fresh⟩ := not_or.1 full
    have new : ∀ a ∈ pages, a ∉ pool s.jrn := fun a ha held => fresh ⟨a, ha, held⟩
    rw [applyGivePages_takes (Nat.not_lt.1 room) new]
    simpa using poolOk_queued ok (Nat.not_lt.1 room) new nodup aligned

end

theorem addsNoPage_workingStep {f : Held → Request → Option State} {s : State}
    (adds : ∀ h r t, f h r = some t → AddsNoPage s.jrn t.jrn) : AddsNoPage s.jrn (workingStep f s).jrn :=
  workingStep_ind (P := fun x => AddsNoPage s.jrn x.jrn) (addsNoPage_refl _) (fun _ _ ht => ht) fun h r t _ e => adds h r t e

/-- A boundary kind's command carries out the request that the walker holds, and nothing else. -/
theorem addsNoPage_boundaryStep {f : Held → Request → Option State} {s : State}
    (applies : ∀ h r t, f h r = some t → applyBoundary h r s = t) : AddsNoPage s.jrn (boundaryStep f s).jrn :=
  boundaryStep_ind (P := fun x => AddsNoPage s.jrn x.jrn) (addsNoPage_refl _) (fun _ _ ht => ht) (fun _ => addsNoPage_refl _)
    fun h r t _ _ e => applies h r t e ▸ addsNoPage_applyBoundary h r s

/-- Every command but GIVE_PAGES leaves the pool no page that it had not. -/
theorem exec_addsNoPage {c : Instr} (other : c ≠ .givePages) (s : State) :
    ∃ t, exec c s = .next t ∧ AddsNoPage s.jrn t.jrn := by
  cases c
  case givePages => exact absurd rfl other
  case hardwareReset low => exact ⟨_, rfl, addsNoPage_resetUnits s⟩
  case softwareReset data | runSet data | runClear data | resume data | look data | acceptedControlWrite data =>
    exact ⟨_, rfl, addsNoPage_controlWrite data s⟩
  case areaBaseWrite data =>
    refine ⟨_, rfl, addsNoPage_of_kept ?_⟩
    unfold areaBaseWrite
    (repeat' split) <;> rfl
  case attnEnableWrite data =>
    refine ⟨_, rfl, addsNoPage_of_kept ?_⟩
    unfold attnEnableWrite
    split <;> rfl
  case attentionRead =>
    refine ⟨_, rfl, addsNoPage_of_kept ?_⟩
    unfold attentionRead
    split <;> rfl
  case serviceWrite data =>
    refine ⟨_, rfl, addsNoPage_of_kept ?_⟩
    unfold serviceWrite
    (repeat' split) <;> rfl
  case ignoredRegisterWrite | lateResponse | resetnRise => exact ⟨_, rfl, addsNoPage_refl _⟩
  case headerReadComplete half => exact ⟨_, rfl, addsNoPage_of_kept (headerRead_jrn half s)⟩
  case errorResponse race | responseLimitExpiry race => exact ⟨_, rfl, addsNoPage_racedFault _ _ race s⟩
  case linkReadComplete link => exact ⟨_, rfl, addsNoPage_of_kept (linkRead_jrn link s)⟩
  case blockReadComplete block => exact ⟨_, rfl, addsNoPage_of_kept (blockRead_jrn block s)⟩
  case takenWriteComplete => exact ⟨_, rfl, addsNoPage_of_kept (takenWritten_jrn s)⟩
  case resultWriteComplete => exact ⟨_, rfl, addsNoPage_of_kept (resultWritten_jrn s)⟩
  case closedWriteComplete => exact ⟨_, rfl, addsNoPage_of_kept (closedWritten_jrn s)⟩
  case configOutput | setOutputs | spot =>
    refine ⟨_, rfl, addsNoPage_workingStep fun h r t e => ?_⟩
    split at e <;> cases e
    simp
  case reclaimPages =>
    refine ⟨_, rfl, addsNoPage_workingStep fun h r t e => ?_⟩
    split at e <;> cases e
    exact addsNoPage_applyReclaimPages h _ s
  case flushJournal =>
    refine ⟨_, rfl, addsNoPage_workingStep fun h r t e => ?_⟩
    split at e <;> cases e
    exact addsNoPage_applyFlushJournal h s
  case configPoint | releasePoint | configGroup | setTiming | recalibrate | reseed | snapshot | mark =>
    refine ⟨_, rfl, addsNoPage_boundaryStep fun h r t e => ?_⟩
    split at e <;> cases e
    rfl
  case frameTimerExpiry ends => exact ⟨_, rfl, addsNoPage_scanEvent (addsNoPage_frameExpiry ends) s⟩
  case scanConversionComplete count ends => exact ⟨_, rfl, addsNoPage_scanEvent (addsNoPage_scanConversion count ends) s⟩
  case spotSubconversionComplete count => exact ⟨_, rfl, addsNoPage_of_kept (by simp)⟩
  case spotWriteComplete => exact ⟨_, rfl, addsNoPage_of_kept (spotWritten_jrn s)⟩
  case snapshotRecordWriteComplete => exact ⟨_, rfl, addsNoPage_of_kept (snapshotWritten_jrn s)⟩
  case journalWriteComplete => exact ⟨_, rfl, addsNoPage_journalWritten s⟩
  case lingerExpiry => exact ⟨_, rfl, addsNoPage_lingerExpires s⟩
  case mirrorWriteComplete => exact ⟨_, rfl, addsNoPage_of_kept (mirrorWritten_jrn s)⟩
  case enterStopped => exact ⟨_, rfl, addsNoPage_of_kept (by simp)⟩

theorem exec_givePages_poolOk {s : State} (ok : s.jrn.PoolOk) : ∃ t, exec .givePages s = .next t ∧ t.jrn.PoolOk := by
  refine ⟨_, rfl, workingStep_ind (P := fun x => x.jrn.PoolOk) ok (fun _ _ ht => ht) fun h r t hw e => ?_⟩
  obtain ⟨-, hp⟩ := hw
  split at e <;> cases e
  exact poolOk_applyGivePages ok hp

theorem exec_poolOk {s : State} (ok : s.jrn.PoolOk) (c : Instr) : ∃ t, exec c s = .next t ∧ t.jrn.PoolOk := by
  by_cases gives : c = .givePages
  · exact gives ▸ exec_givePages_poolOk ok
  · obtain ⟨t, ht, adds⟩ := exec_addsNoPage gives s
    exact ⟨t, ht, adds.poolOk ok⟩

/-- Settles O55: an empty queue idles, GIVE_PAGES queues new pages in the room there is, and no other command adds a page. -/
theorem pagePoolStaysSound : Obligations.PagePoolStaysSound := by
  intro s t ok e
  unfold step at e
  split at e
  · cases e
    exact ok
  · rename_i c rest _
    obtain ⟨u, hu, kept⟩ := exec_poolOk (s := s.setPending rest) ok c
    rw [hu] at e
    cases e
    exact kept

/-! ### A page closed, and its CLOSED header issued (R133, R135) -/

/-- What the port calls a write of the journal unit. -/
def journalAccess (w : JournalWrite) : Access := { kind := .journalWrite, addr := w.addr, data := w.data }

/-- The write that closes a page (R135). -/
def closedHeader (page : OpenPage) (cause : CloseCause) : JournalWrite :=
  { addr := page.addr, data := pageHeader page (some cause), closes := some { sequence := page.sequence, cause := cause } }

theorem pushJournal_issues {s : State} (first : s.jrn.writes = []) (w : JournalWrite) :
    (pushJournal w s).port = s.port ++ [journalAccess w] := by
  rw [pushJournal, first]
  rfl

theorem pushJournal_waits {s : State} (behind : s.jrn.writes ≠ []) (w : JournalWrite) : (pushJournal w s).port = s.port := by
  obtain ⟨x, xs, hw⟩ := List.exists_cons_of_ne_nil behind
  rw [pushJournal, hw]
  rfl

section
variable {s : State} {page : OpenPage} (held : s.jrn.page = some page) (cause : CloseCause)
include held

theorem closePage_eq : closePage cause s = (s.setJrn (s.jrn.closed page cause)).setPort (closePage cause s).port := by
  apply State.eq_of_fields <;> simp [closePage_jrn held]

theorem closePage_pushes : closePage cause s = pushJournal (closedHeader page cause)
    (s.setJrn { s.jrn with page := none, lingerTimer := none, closeMark := .none }) := by
  rw [closePage, held]
  rfl

theorem closePage_port_length : (closePage cause s).port.length ≤ s.port.length + 1 := by
  rw [closePage_pushes held]
  exact pushJournal_port _ _

theorem closePage_issues (first : s.jrn.writes = []) :
    (closePage cause s).port = s.port ++ [journalAccess (closedHeader page cause)] := by
  rw [closePage_pushes held, pushJournal_issues]
  · rfl
  · exact first

theorem closePage_waits (behind : s.jrn.writes ≠ []) : (closePage cause s).port = s.port := by
  rw [closePage_pushes held, pushJournal_waits]
  · rfl
  · exact behind

end

/-! ### FLUSH_JOURNAL (R142) -/

theorem exec_flushJournal {s : State} {h : Held} (hw : s.Working h .flushJournal) :
    exec .flushJournal s = .next (receiveTogether s.port.length (applyFlushJournal h s)) :=
  congrArg Host.Outcome.next (workingStep_eq hw rfl)

section
variable {s : State} (h : Held)

theorem applyFlushJournal_inFrame (inside : s.jrn.frameOpen = true) : applyFlushJournal h s =
    (s.setJrn { s.jrn with closeMark := .flush }).walkTo (.workingFlush h) := if_pos inside

theorem applyFlushJournal_answers (between : s.jrn.frameOpen = false) (empty : ∀ p, s.jrn.page = some p → p.count = 0) :
    applyFlushJournal h s = answer h (Answer.done 0) s := by
  have unrecorded : s.jrn.hasRecords = false := by
    unfold Journal.hasRecords
    split
    · rename_i p hp
      simpa using empty p hp
    · rfl
  simp [applyFlushJournal, between, unrecorded]

theorem applyFlushJournal_closes (between : s.jrn.frameOpen = false) {p : OpenPage} (hp : s.jrn.page = some p)
    (records : p.count ≠ 0) : applyFlushJournal h s = closePage .flush (s.walkTo (.workingFlush h)) := by
  simp [applyFlushJournal, between, Journal.hasRecords, hp, records]

end

/-- Settles O24: by whether a frame is open, and if none is, by whether the page in the slot has records. -/
theorem flushJournalApplied : Obligations.FlushJournalApplied := by
  refine fun s h hw => ⟨fun inside => ?_, fun between empty => ?_, fun between p hp records => ?_⟩ <;> rw [exec_flushJournal hw]
  · rw [applyFlushJournal_inFrame h inside, receiveTogether_one (by simp)]
    rfl
  · rw [applyFlushJournal_answers h between empty, receiveTogether_answer _ _ rfl]
    rfl
  · have held : (s.walkTo (.workingFlush h)).jrn.page = some p := hp
    rw [applyFlushJournal_closes h between hp records, receiveTogether_one (n := s.port.length) (closePage_port_length held _),
      closePage_eq held]
    exact ⟨_, rfl, rfl, rfl, rfl⟩

/-! ### The linger timer's expiry (R137) -/

section
variable {s : State}

theorem lingerExpires_stopped (stopped : s.jrn.lingerTimer = none) : lingerExpires s = s := by
  rw [lingerExpires, stopped]

variable {v : Nat} (timer : s.jrn.lingerTimer = some v)
include timer

theorem lingerExpires_inFrame (inside : s.jrn.frameOpen = true) : lingerExpires s = s.setJrn { s.jrn with
    lingerTimer := none, closeMark := if s.jrn.closeMark = .flush then .flush else .linger } := by
  rw [lingerExpires, timer]
  exact if_pos inside

theorem lingerExpires_between (between : s.jrn.frameOpen = false) :
    lingerExpires s = closePage .linger (s.setJrn { s.jrn with lingerTimer := none }) := by
  rw [lingerExpires, timer]
  exact if_neg (by simp [between])

end

theorem exec_lingerExpiry (s : State) : exec .lingerExpiry s = .next (lingerExpires s) := rfl

/-- Settles O36: by the timer and by whether a frame is open; between frames the page in the slot is closed. -/
theorem lingerExpiryActs : Obligations.LingerExpiryActs := by
  refine fun s => ⟨fun stopped => ?_, fun v timer => ⟨fun inside => ?_, fun between p hp => ?_⟩⟩
  · rw [exec_lingerExpiry, lingerExpires_stopped stopped]
  · rw [exec_lingerExpiry, lingerExpires_inFrame timer inside]
  · have held : (s.setJrn { s.jrn with lingerTimer := none }).jrn.page = some p := hp
    refine ⟨_, _, ?_, rfl, closePage_issues held .linger, closePage_waits held .linger⟩
    rw [exec_lingerExpiry, lingerExpires_between timer between, closePage_eq held]
    rfl

/-! ### A write of the journal unit completes (R133, R135, R142) -/

/-- The next write on the list is issued. -/
theorem nextJournalWrite_port (s : State) :
    (nextJournalWrite s).port = s.port ++ (s.jrn.writes.tail.take 1).map journalAccess := by
  unfold nextJournalWrite
  rcases s.jrn.writes with _ | ⟨w, _ | ⟨x, rest⟩⟩ <;> simp [issue, journalAccess]

section
variable {s : State} {a : Access} {rest : List Access} {w : JournalWrite} {ws : List JournalWrite} (hp : s.port = a :: rest)
  (hk : a.kind = .journalWrite) (hw : s.jrn.writes = w :: ws)

include hp hw in
/-- The journal unit and the port once the write has left the list. -/
theorem retireJournal_leaves : (nextJournalWrite (retire s)).jrn = { s.jrn with writes := ws } ∧
    (nextJournalWrite (retire s)).port = rest ++ (ws.take 1).map journalAccess := by
  have port : (retire s).port = rest := by rw [retire_cons hp]; rfl
  have list : (retire s).jrn = s.jrn := by simp
  rw [nextJournalWrite_jrn, nextJournalWrite_port, port, list, hw]
  exact ⟨rfl, rfl⟩

include hp hk hw

theorem exec_journalWriteComplete_plain (plain : w.closes = none) :
    exec .journalWriteComplete s = .next (nextJournalWrite (retire s)) := by
  obtain ⟨-, port⟩ := retireJournal_leaves hp hw
  have one : (nextJournalWrite (retire s)).port.length ≤ rest.length + 1 := by
    rw [port, List.length_append, List.length_map, List.length_take]
    exact Nat.add_le_add_left (Nat.min_le_left _ _) _
  refine congrArg Host.Outcome.next ?_
  rw [journalWritten, hw]
  simp only [State.serving_cons hp, hk, beq_self_eq_true, if_true, plain]
  rw [hp]
  exact receiveTogether_one one

theorem exec_journalWriteComplete_closes {x : Closing} (closes : w.closes = some x) :
    exec .journalWriteComplete s = .next (receiveTogether rest.length (pageClosed x (nextJournalWrite (retire s)))) := by
  refine congrArg Host.Outcome.next ?_
  rw [journalWritten, hw]
  simp only [State.serving_cons hp, hk, beq_self_eq_true, if_true, closes]
  rw [hp]
  rfl

end

theorem pageClosed_atn (x : Closing) (s : State) : (pageClosed x s).atn = s.atn.raise .pageClosed := by
  unfold pageClosed
  split <;> simp [raise]

theorem answerFlush_unasked {s : State} (unasked : ∀ h, s.wk.state ≠ .workingFlush h) (value : Word) : answerFlush value s = s := by
  unfold answerFlush
  split
  · rename_i h waits
    exact absurd waits (unasked h)
  · rfl

theorem answerFlush_answers {s : State} {h : Held} (waits : s.wk.state = .workingFlush h) (value : Word) :
    answerFlush value s = answer h (Answer.done value) s := by
  rw [answerFlush, waits]

/-- A page closed by another cause answers nothing, and nor does one with no FLUSH_JOURNAL left to answer. -/
theorem pageClosed_wk_kept {x : Closing} {s : State} (unasked : x.cause ≠ .flush ∨ ∀ h, s.wk.state ≠ .workingFlush h) :
    (pageClosed x s).wk = s.wk := by
  unfold pageClosed
  split
  · rename_i flush
    rw [answerFlush_unasked (s := raise .pageClosed s) (unasked.resolve_left (not_not_intro flush))]
    rfl
  · rfl

theorem pageClosed_wk_answered {x : Closing} {s : State} {h : Held} (flush : x.cause = .flush)
    (waits : s.wk.state = .workingFlush h) :
    (pageClosed x s).wk = { s.wk with state := .closingResult h (Answer.done x.sequence) } := by
  rw [pageClosed, if_pos flush, answerFlush_answers (s := raise .pageClosed s) waits]
  rfl

/-! ### The mirror write completes (R5, R6, R172, R173) -/

/-- The image's write leaves the mirror writer, and STOPPED is raised for the image of the entry to STOPPED. -/
def imageWritten (w : MirrorWrite) (s : State) : State :=
  (s.setAtn (if w.atStop then s.atn.raise .stopped else s.atn)).setMir { s.mir with writing := none }

theorem imageWritten_eq (w : MirrorWrite) (s : State) :
    (if w.atStop then raise .stopped (s.setMir { s.mir with writing := none }) else s.setMir { s.mir with writing := none }) =
      imageWritten w s := by
  unfold imageWritten
  split <;> rfl

section
variable {s : State} {w : MirrorWrite} (hw : s.mir.writing = some w)
include hw

theorem nextImage_keeps_waiting (kept : s.mir.waiting = none ∨ s.ctl.op = .stopping) : nextImage s = imageWritten w s := by
  rw [nextImage, hw]
  simp only [imageWritten_eq]
  rcases kept with nothing | stopping
  · rw [nothing]
  · rw [stopping]
    split <;> rfl

theorem nextImage_issues {i : Image} (waits : s.mir.waiting = some i) (issues : s.ctl.op = .running ∨ s.ctl.op = .stopped) :
    nextImage s = issueImage i false (imageWritten w s) := by
  rw [nextImage, hw]
  simp only [imageWritten_eq]
  rw [waits]
  rcases issues with op | op <;> rw [op] <;> rfl

end

theorem exec_mirrorWriteComplete {s : State} {a : Access} {rest : List Access} (hp : s.port = a :: rest)
    (hk : a.kind = .mirrorWrite) : exec .mirrorWriteComplete s =
      .next (nextImage ((s.setPort rest).setMem (Memory.putWords s.mem a.addr.toNat a.data))) := by
  refine congrArg Host.Outcome.next ?_
  rw [← retire_cons hp]
  exact if_pos (by rw [State.serving_cons hp, hk]; rfl)

/-- Settles O51: the image's layout, a journal write by whether it closes a page, and the mirror write by what waits and by
whether the operating state issues it. -/
theorem journalAndMirrorWritesComplete : Obligations.JournalAndMirrorWritesComplete := by
  refine ⟨imageLayout, fun s a rest w ws hp hk hw => ?_, fun s a rest w hp hk hw mem atn hmem hatn => ⟨fun kept => ?_,
    fun i waits issues => ?_⟩⟩
  · obtain ⟨list, port⟩ := retireJournal_leaves hp hw
    rcases closes : w.closes with _ | x
    · exact ⟨_, exec_journalWriteComplete_plain hp hk hw closes, list, by simp, by simp, by simp, by simp,
        fun _ => ⟨by simp, by simp, port⟩, fun x hx => by cases hx⟩
    · have walker : (nextJournalWrite (retire s)).wk = s.wk := by simp
      refine ⟨_, exec_journalWriteComplete_closes hp hk hw closes, by simpa using list, by simp, by simp, by simp, by simp,
        fun plain => (by cases plain), fun y hy => ?_⟩
      cases hy
      refine ⟨(pageClosed_atn x _).trans (by simp), fun unasked => ?_, fun h flush waits => ?_⟩
      · rw [← walker] at unasked ⊢
        exact pageClosed_wk_kept unasked
      · rw [← walker] at waits ⊢
        exact pageClosed_wk_answered flush waits
  · rw [exec_mirrorWriteComplete hp hk, nextImage_keeps_waiting (s := (s.setPort rest).setMem _) hw kept, hmem, hatn]
    rfl
  · rw [exec_mirrorWriteComplete hp hk, nextImage_issues (s := (s.setPort rest).setMem _) hw waits issues, hmem, hatn]
    rfl

end Sys2Proof.Machine.EventJournal
end

section
/-! SUPPORT. 09_spot_measurements_and_snapshots.md, proved: what a snapshot, a spot's sub-conversion and a write of the spot unit
lead to, and from them the statements on SNAPSHOT, on a sub-conversion's completion and on the unit's writes. -/

namespace Sys2Proof.Machine.SpotMeasurements

open RequestChain

/-! ### SNAPSHOT applied (R156, R157) -/

theorem snapshotWrites_length (eng : ScanEngine) : ∀ (ps : List PointId) (buffer : Word),
    (snapshotWrites eng buffer ps).length = ps.length
  | [], _ => rfl
  | _ :: ps, buffer => congrArg (· + 1) (snapshotWrites_length eng ps (buffer + 32))

/-- The record of the point at place `i` of the set stands `i` times 32 bytes into the buffer. -/
theorem snapshotWrites_getElem? (eng : ScanEngine) {p : PointId} : ∀ {ps : List PointId} {i : Nat} (buffer : Word),
    ps[i]? = some p → (snapshotWrites eng buffer ps)[i]? = some
      { kind := .snapshotRecord, addr := buffer + BitVec.ofNat 32 (32 * i)
        data := snapshotWords p eng.points[p] (groupOf eng.groups p) }
  | [], _, _, h => by simp at h
  | q :: _, 0, buffer, h => by
    obtain rfl : q = p := by simpa using h
    simp [snapshotWrites]
  | _ :: ps, i + 1, buffer, h => by
    have place : buffer + 32 + BitVec.ofNat 32 (32 * i) = buffer + BitVec.ofNat 32 (32 * (i + 1)) := by bv_omega
    rw [← place]
    exact snapshotWrites_getElem? eng (buffer + 32) h

section
variable {s : State} (h : Held) (buffer : Word) {set : PointSet}

theorem applySnapshot_empty (empty : pointsOf set = []) : applySnapshot h buffer set s = answer h (Answer.done 0) s := by
  rw [applySnapshot, empty]

theorem applySnapshot_copies (points : pointsOf set ≠ []) : applySnapshot h buffer set s =
    pushSpots (snapshotWrites s.eng buffer (pointsOf set))
      ((s.setSpt { s.spt with snapshot := some { total := (pointsOf set).length, left := (pointsOf set).length } }).walkTo
        (.awaiting h .applied)) := by
  unfold applySnapshot
  split
  case h_1 empty => exact absurd empty points
  case h_2 => rfl

end

theorem exec_snapshot {s : State} {h : Held} {buffer : Word} {set : PointSet} (hb : s.betweenFrames = true)
    (hw : s.Awaits h (.snapshot buffer set)) :
    exec .snapshot s = .next (receiveTogether s.port.length (applySnapshot h buffer set s)) :=
  exec_boundary hb hw rfl

/-- Settles O31: by whether the set has a point; the records' places by induction on the points. -/
theorem snapshotApplied : Obligations.SnapshotApplied := by
  refine ⟨snapshotLayout, fun s h buffer set ps hb hw hps => ?_⟩
  obtain rfl : ps = pointsOf set := hps
  rw [exec_snapshot hb hw]
  refine ⟨fun empty => ?_, fun points => ⟨_, rfl, ?_⟩⟩
  · rw [applySnapshot_empty h buffer empty, receiveTogether_answer _ _ rfl]
    rfl
  · rw [applySnapshot_copies h buffer points]
    simp only [receiveTogether_keeps, pushSpots_keeps, pushSpots_spt]
    exact ⟨rfl, rfl, rfl, rfl, rfl, rfl, rfl, snapshotWrites s.eng buffer (pointsOf set), rfl, snapshotWrites_length _ _ _,
      fun i p place => snapshotWrites_getElem? s.eng buffer place⟩

/-! ### The sums of a spot (R151, R152) -/

section
variable (sums : SpotSums) (c : Half)

theorem add_saturated : (sums.add c).saturated = sums.saturated + (if c = 0 ∨ c = 0xFFFF then 1 else 0) := by
  simp only [SpotSums.add, isSaturated_iff]
  split <;> rfl

variable {sums}

theorem add_extremes_first (first : sums.done = 0) : (sums.add c).least = c ∧ (sums.add c).greatest = c := by
  simp [SpotSums.add, first]

theorem add_extremes_later (later : sums.done ≠ 0) : (sums.add c).least.toNat = min sums.least.toNat c.toNat ∧
    (sums.add c).greatest.toNat = max sums.greatest.toNat c.toNat := by
  simp only [SpotSums.add, later, false_or]
  constructor <;> split <;> omega

/-- The least and the greatest count are settled by what R151 says of them. -/
theorem add_extremes_unique {least greatest : Half} (later : sums.done ≠ 0 → least.toNat = min sums.least.toNat c.toNat ∧
      greatest.toNat = max sums.greatest.toNat c.toNat) (first : sums.done = 0 → least = c ∧ greatest = c) :
    least = (sums.add c).least ∧ greatest = (sums.add c).greatest := by
  by_cases done : sums.done = 0
  · obtain ⟨l, g⟩ := add_extremes_first c done
    rw [l, g]
    exact first done
  · obtain ⟨l, g⟩ := add_extremes_later c done
    obtain ⟨l', g'⟩ := later done
    exact ⟨BitVec.eq_of_toNat_eq (l'.trans l.symm), BitVec.eq_of_toNat_eq (g'.trans g.symm)⟩

end

/-! ### The converter is released by the spot (R47, R59) -/

/-- The mark stands beside what the grant prepares (R53, R59). -/
theorem atGrant_setBusy (pt : Point) (b : Bool) :
    { pt with spotBusy := b }.atGrant = { pt.atGrant with spotBusy := b } := by
  unfold Point.atGrant
  split <;> rfl

theorem setBusy_point (s : State) (p r : PointId) (b : Bool) :
    (s.setBusy p b).point r = if r = p then { s.point r with spotBusy := b } else s.point r := by
  split
  case isTrue same => rw [same, setBusy_point_same]
  case isFalse other => rw [setBusy_point_other s other]

theorem releaseConverter_eng (s : State) : (releaseConverter s).eng = { s.eng with points := (releaseConverter s).eng.points } := by
  unfold releaseConverter
  (repeat' split) <;> simp [grantScan, State.setPoint_eng]

section
variable {s : State} (alone : s.arb.spotWaits = false)
include alone

theorem releaseConverter_spt : (releaseConverter s).spt = s.spt := by
  simp only [releaseConverter, alone, Bool.false_eq_true, if_false]
  (repeat' split) <;> simp

/-- A slot that waits is granted the converter as a FREE one grants its request. -/
theorem releaseConverter_requestScan {q : PointId} (waits : s.arb.scanWaits = true) (slot : s.eng.slot = some q) :
    releaseConverter s = requestScan q (s.setArb { s.arb with grant := .free }) := by
  simp [releaseConverter, requestScan, alone, waits, slot]

theorem releaseConverter_granted {q : PointId} (waits : s.arb.scanWaits = true) (slot : s.eng.slot = some q) :
    (releaseConverter s).arb = { grant := .scan ⟨(s.point q).cfg.integration, (s.point q).atGrant.tuning⟩, scanWaits := false
                                 spotWaits := false } ∧
    (releaseConverter s).point q = (s.point q).atGrant ∧ ∀ r : PointId, r ≠ q → (releaseConverter s).point r = s.point r := by
  rw [releaseConverter_requestScan alone waits slot]
  obtain ⟨others, -, granted, -⟩ := requestScan_begins (s.setArb { s.arb with grant := .free }) q
  obtain ⟨prepared, holds⟩ := granted rfl alone
  exact ⟨holds, prepared, others⟩

theorem releaseConverter_free (unasked : s.arb.scanWaits = false) :
    (releaseConverter s).arb.Idle ∧ ∀ r : PointId, (releaseConverter s).point r = s.point r := by
  obtain ⟨eng, -, free, -⟩ := releaseConverter_releases unasked
  obtain ⟨-, arb⟩ := free alone
  rw [arb]
  exact ⟨⟨rfl, rfl, rfl⟩, fun r => by rw [State.point, eng, State.point]⟩

end

/-! ### A sub-conversion completes (R151 to R153, R53) -/

theorem exec_spotSubconversionComplete (c : Half) (s : State) :
    exec (.spotSubconversionComplete c) s = .next (receiveTogether s.port.length (spotConversion c s)) := rfl

section
variable {s : State} {v : Conversion} {k : SpotHeld} {sums : SpotSums} (c : Half) (holds : s.arb.grant = .spot v)
include holds

theorem spotConversion_goesOn (state : s.spt.state = .converting k sums none) (more : sums.done + 1 < k.multiplier) :
    spotConversion c s = (s.setArb { s.arb with grant := .spot ⟨(s.point k.point).cfg.integration, (s.point k.point).tuning⟩ }).setSpt
      { s.spt with state := .converting k (sums.add c) none } := by
  rw [spotConversion, holds, state]
  exact if_pos more

theorem spotConversion_done (state : s.spt.state = .converting k sums none) (last : k.multiplier ≤ sums.done + 1) :
    spotConversion c s =
      endSpot k .done (BitVec.ofNat 32 k.multiplier) (spotParams (sums.add c) k.multiplier) (releaseConverter s) := by
  rw [spotConversion, holds, state]
  exact if_neg (Nat.not_lt.2 last)

/-- An order that stands ends the spot, whatever its sums (R53). -/
theorem spotConversion_ordered {code : ResultCode} (state : s.spt.state = .converting k sums (some code)) :
    spotConversion c s = endSpot k code 0 [] (releaseConverter s) := by
  rw [spotConversion, holds, state]

end

/-- The result access of a spot that ended DONE, by R152's words. -/
theorem resultWords_done (k : SpotHeld) {sums : SpotSums} (c : Half) {least greatest : Half}
    (later : sums.done ≠ 0 → least.toNat = min sums.least.toNat c.toNat ∧ greatest.toNat = max sums.greatest.toNat c.toNat)
    (first : sums.done = 0 → least = c ∧ greatest = c) :
    resultWords k.tag .done (BitVec.ofNat 32 k.multiplier) (spotParams (sums.add c) k.multiplier) =
      [ofHalves k.tag 0, BitVec.ofNat 32 k.multiplier, BitVec.ofNat 32 ((sums.sum + c.toNat) * 256 / k.multiplier),
       ofHalves least greatest, ofBytes (BitVec.ofNat 8 (sums.done + 1))
         (BitVec.ofNat 8 (sums.saturated + (if c = 0 ∨ c = 0xFFFF then 1 else 0))) 0 0] := by
  obtain ⟨rfl, rfl⟩ := add_extremes_unique c later first
  rw [← add_saturated]
  rfl

/-- The converter and the points once it is released and the spot's mark cleared, by whether a slot waits (R47, R53, R59). -/
theorem endSpot_handsOver {s : State} (alone : s.arb.spotWaits = false) (k : SpotHeld) (code : ResultCode) (value : Word)
    (params : List Word) {x : PointId → Point}
    (hx : ∀ r : PointId, x r = if r = k.point then { s.point r with spotBusy := false } else s.point r) :
    (s.arb.scanWaits = false → (endSpot k code value params (releaseConverter s)).arb.Idle ∧
      ∀ r : PointId, (endSpot k code value params (releaseConverter s)).point r = x r) ∧
    (∀ q, s.arb.scanWaits = true → s.eng.slot = some q →
      (endSpot k code value params (releaseConverter s)).arb =
        { grant := .scan ⟨(s.point q).cfg.integration, (s.point q).atGrant.tuning⟩, scanWaits := false, spotWaits := false } ∧
      (endSpot k code value params (releaseConverter s)).point q = (x q).atGrant ∧
      ∀ r : PointId, r ≠ q → (endSpot k code value params (releaseConverter s)).point r = x r) := by
  simp only [endSpot_keeps, endSpot_point, setBusy_point, hx]
  refine ⟨fun unasked => ?_, fun q waits slot => ?_⟩
  · obtain ⟨idle, same⟩ := releaseConverter_free alone unasked
    exact ⟨idle, fun r => by rw [same]⟩
  · obtain ⟨arb, prepared, others⟩ := releaseConverter_granted alone waits slot
    refine ⟨arb, ?_, fun r other => by rw [others r other]⟩
    rw [prepared]
    split
    · exact (atGrant_setBusy _ _).symm
    · rfl

/-- Settles O49: the next sub-conversion, or the spot's end by an order that stands or by its last count, which leave the
converter alike. -/
theorem spotSubconversionCompletes : Obligations.SpotSubconversionCompletes := by
  refine ⟨slotRules, fun s v k sums c holds alone => ⟨fun state more => ⟨sums.add c, ?_, rfl, rfl, add_saturated sums c,
    add_extremes_first c, add_extremes_later c⟩, fun code words ends => ?_⟩⟩
  · rw [exec_spotSubconversionComplete, spotConversion_goesOn c holds state more, receiveTogether_one (by simp)]
  · obtain ⟨value, params, spot, rfl⟩ : ∃ value params,
        spotConversion c s = endSpot k code value params (releaseConverter s) ∧ words = resultWords k.tag code value params := by
      rcases ends with ⟨state, rfl⟩ | ⟨state, last, rfl, least, greatest, later, first, rfl⟩
      · exact ⟨_, _, spotConversion_ordered c holds state, rfl⟩
      · exact ⟨_, _, spotConversion_done c holds state last, (resultWords_done k c later first).symm⟩
    rw [exec_spotSubconversionComplete, spot]
    refine ⟨_, rfl, ?_, ?_, by simp, by simp, by simp, by simp, by simp, by simp, by simp, fun x hx => ?_⟩
    · simp only [receiveTogether_keeps, endSpot_spt, releaseConverter_spt alone]
    · simp only [receiveTogether_keeps, endSpot_eng]
      rw [State.setBusy, State.setPoint_eng, releaseConverter_eng]
    · simpa only [receiveTogether_keeps, receiveTogether_point] using endSpot_handsOver alone k code value params hx

/-! ### A write of the spot unit leaves its list (R148) -/

/-- What the port calls a write of the spot unit. -/
def spotAccess (w : SpotWrite) : Access := { kind := w.kind.access, addr := w.addr, data := w.data }

theorem nextSpotWrite_spt (s : State) : (nextSpotWrite s).spt = { s.spt with writes := s.spt.writes.tail } := by
  unfold nextSpotWrite
  rcases s.spt.writes with _ | ⟨w, _ | ⟨x, rest⟩⟩ <;> simp

/-- The next write on the list is issued. -/
theorem nextSpotWrite_port (s : State) : (nextSpotWrite s).port = s.port ++ (s.spt.writes.tail.take 1).map spotAccess := by
  unfold nextSpotWrite
  rcases s.spt.writes with _ | ⟨w, _ | ⟨x, rest⟩⟩ <;> simp [issue, spotAccess]

section
variable {s : State} {a : Access} {rest : List Access} {w : SpotWrite} {ws : List SpotWrite} (hp : s.port = a :: rest)
  (hw : s.spt.writes = w :: ws)
include hp

theorem retire_port : (retire s).port = rest := by
  rw [retire_cons hp]
  rfl

include hw

/-- The spot unit and the port once the write has left the list. -/
theorem retireSpot_leaves : (nextSpotWrite (retire s)).spt = { s.spt with writes := ws } ∧
    (nextSpotWrite (retire s)).port = rest ++ (ws.take 1).map spotAccess := by
  have list : (retire s).spt = s.spt := by simp
  rw [nextSpotWrite_spt, nextSpotWrite_port, retire_port hp, list, hw]
  exact ⟨rfl, rfl⟩

theorem exec_spotWriteComplete (hk : a.kind = .spotWrite) : exec .spotWriteComplete s = .next (receiveTogether rest.length
    (if w.kind = .closed then spotClosed (nextSpotWrite (retire s)) else nextSpotWrite (retire s))) := by
  refine congrArg Host.Outcome.next ?_
  rw [spotWritten, hw]
  simp only [State.serving_cons hp, hk, beq_self_eq_true, if_true]
  rw [hp]
  rfl

theorem exec_spotWriteComplete_result (hk : a.kind = .spotWrite) (result : w.kind ≠ .closed) :
    exec .spotWriteComplete s = .next (nextSpotWrite (retire s)) := by
  obtain ⟨-, port⟩ := retireSpot_leaves hp hw
  have one : (nextSpotWrite (retire s)).port.length ≤ rest.length + 1 := by
    rw [port, List.length_append, List.length_map, List.length_take]
    exact Nat.add_le_add_left (Nat.min_le_left _ _) _
  rw [exec_spotWriteComplete hp hw hk, if_neg result, receiveTogether_one one]

end

/-! ### The spot's CLOSED write completes (R152, R19, R150) -/

/-- The spot unit EMPTY, NOTIFY raised if the spot asked for it. -/
def emptied (k : SpotHeld) (s : State) : State :=
  (s.setSpt { s.spt with state := .empty }).setAtn (if k.flags.getLsbD 0 then s.atn.raise .notify else s.atn)

section
variable (k : SpotHeld) (s : State)

@[simp] theorem emptied_keeps : (emptied k s).ctl = s.ctl ∧ (emptied k s).wk = s.wk ∧ (emptied k s).eng = s.eng ∧
    (emptied k s).arb = s.arb ∧ (emptied k s).jrn = s.jrn ∧ (emptied k s).mir = s.mir ∧ (emptied k s).out = s.out := by
  simp [emptied]

@[simp] theorem emptied_spt : (emptied k s).spt = { s.spt with state := .empty } := rfl

@[simp] theorem emptied_atn : (emptied k s).atn = if k.flags.getLsbD 0 then s.atn.raise .notify else s.atn := rfl

end

section
variable {s : State} {k : SpotHeld} {code : ResultCode} (state : s.spt.state = .closing k code)
include state

theorem spotClosed_eq : spotClosed s = acceptWaitingSpot (emptied k s) := by
  rw [spotClosed, state]
  exact congrArg acceptWaitingSpot (notifyIf_eq _ _)

theorem spotClosed_unasked (unasked : ∀ h, s.wk.state ≠ .workingSpot h) : spotClosed s = emptied k s := by
  rw [spotClosed_eq state]
  unfold acceptWaitingSpot
  split
  case h_1 h waits => exact absurd waits (unasked h)
  case h_2 => rfl

theorem spotClosed_accepts {h : Held} {p : PointId} {m : Nat} (waits : s.wk.state = .workingSpot h)
    (parsed : parse h.block = .ok (.spot p m)) : spotClosed s = acceptSpot h p m (emptied k s) := by
  have walker : (emptied k s).wk.state = .workingSpot h := waits
  rw [spotClosed_eq state, acceptWaitingSpot, walker]
  simp only [parsed]

end

section
variable {s : State} {a : Access} {rest : List Access} {w : SpotWrite} {ws : List SpotWrite} {k : SpotHeld} {code : ResultCode}
  (hp : s.port = a :: rest) (hw : s.spt.writes = w :: ws) (hk : a.kind = .spotWrite) (closed : w.kind = .closed)
  (state : s.spt.state = .closing k code)
include hp hw hk closed state

theorem exec_spotWriteComplete_unasked (unasked : ∀ h, s.wk.state ≠ .workingSpot h) :
    exec .spotWriteComplete s = .next (receiveTogether rest.length (emptied k (nextSpotWrite (retire s)))) := by
  obtain ⟨spt, -⟩ := retireSpot_leaves hp hw
  rw [exec_spotWriteComplete hp hw hk, if_pos closed, spotClosed_unasked (code := code) (by rw [spt]; exact state)]
  simpa using unasked

theorem exec_spotWriteComplete_accepts {h : Held} {p : PointId} {m : Nat} (waits : s.wk.state = .workingSpot h)
    (parsed : parse h.block = .ok (.spot p m)) : exec .spotWriteComplete s =
      .next (receiveTogether rest.length (acceptSpot h p m (emptied k (nextSpotWrite (retire s))))) := by
  obtain ⟨spt, -⟩ := retireSpot_leaves hp hw
  rw [exec_spotWriteComplete hp hw hk, if_pos closed, spotClosed_accepts (code := code) (by rw [spt]; exact state) _ parsed]
  simpa using waits

end

/-! ### A snapshot record's write completes (R156) -/

theorem exec_snapshotRecordWriteComplete {s n : State} {a : Access} {rest : List Access} {job : SnapshotJob}
    (hp : s.port = a :: rest) (hk : a.kind = .snapshotWrite) (hj : s.spt.snapshot = some job)
    (hn : nextSpotWrite (retire s) = n) : exec .snapshotRecordWriteComplete s = .next (receiveTogether rest.length
      (if job.left ≤ 1 then snapshotDone job.total (n.setSpt { n.spt with snapshot := none })
        else n.setSpt { n.spt with snapshot := some { job with left := job.left - 1 } })) := by
  subst hn
  refine congrArg Host.Outcome.next ?_
  rw [snapshotWritten, hj]
  simp only [State.serving_cons hp, hk, beq_self_eq_true, if_true]
  rw [hp]
  rfl

theorem snapshotDone_wk {s : State} {h : Held} (waits : s.wk.state = .awaiting h .applied) (total : Nat) :
    (snapshotDone total s).wk = { s.wk with state := .closingResult h (Answer.done (BitVec.ofNat 32 total)) } := by
  rw [snapshotDone, waits]
  exact congrArg State.wk (answer_eq h _ s)

/-- Settles O50: a result's write, a CLOSED write by whether a SPOT waits, and a snapshot's write by how many records are
left. -/
theorem spotUnitWritesComplete : Obligations.SpotUnitWritesComplete := by
  intro s a rest w ws hp hw
  obtain ⟨spt, port⟩ := retireSpot_leaves hp hw
  refine ⟨fun hk result => ?_, fun hk closed k code state atn hatn => ?_, fun hk job hj => ⟨fun more => ?_, fun last => ?_⟩⟩
  · exact ⟨_, exec_spotWriteComplete_result hp hw hk result, spt, by simp, by simp, by simp, by simp, by simp, by simp, by simp,
      by simp, port⟩
  · subst hatn
    refine ⟨fun unasked => ⟨_, exec_spotWriteComplete_unasked hp hw hk closed state unasked, ?_⟩, fun h p m waits parsed => ?_⟩
    · simp [spt]
    · have run := exec_spotWriteComplete_accepts hp hw hk closed state waits parsed
      generalize hu : emptied k (nextSpotWrite (retire s)) = u at run
      have eng : u.eng = s.eng := by simp [← hu]
      have walker : u.wk = s.wk := by simp [← hu]
      have arb : u.arb = s.arb := by simp [← hu]
      have unit : u.spt = { s.spt with state := .empty, writes := ws } := by simp [← hu, spt]
      have point : ∀ q, u.point q = s.point q := fun q => by rw [State.point, eng, State.point]
      obtain ⟨walks, -⟩ := acceptSpot_walks h p m u
      refine ⟨_, run, by simp [← hu], ?_, fun q other => ?_, ?_, by simp [← hu], by simp [← hu], by simp [← hu],
        by simp [← hu], ?_, ?_⟩
      · rw [receiveTogether_point, acceptSpot_point, setBusy_point_same, point]
      · rw [receiveTogether_point, acceptSpot_point, setBusy_point_other _ other, point]
      · simp [acceptSpot_eng, State.setBusy, State.setPoint_eng, eng]
      · simp [walks, walker]
      · rintro k' rfl
        have granted := acceptSpot_granted h p m (s := u)
        have waiting := acceptSpot_waits h p m (s := u)
        rw [arb, unit] at granted waiting
        rw [point] at granted
        simp only [receiveTogether_keeps]
        exact ⟨granted, waiting⟩
  · rw [exec_snapshotRecordWriteComplete hp hk hj rfl, if_neg (Nat.not_le.2 more)]
    refine ⟨_, rfl, ?_⟩
    simp [spt]
  · rw [exec_snapshotRecordWriteComplete hp hk hj rfl, if_pos last]
    refine ⟨_, rfl, by simp [spt], by simp, by simp, by simp, by simp, by simp, by simp, by simp, fun h waits => ?_⟩
    simp [snapshotDone_wk (h := h) (s := (nextSpotWrite (retire s)).setSpt _) (by simpa using waits), Answer.done]

end Sys2Proof.Machine.SpotMeasurements
end

section
/-! SUPPORT. 10_output_lines.md, proved: what a report and the two output requests make of the lines, what the pins show, and
that outside FAULTED the output unit's view goes with the point table through every step. -/

namespace Sys2Proof.Machine.OutputLines

/-! ### CONFIG_OUTPUT and SET_OUTPUTS (R164, R165) -/

/-- Bits set one after another for the elements of a list that a test picks. -/
theorem foldl_setBits_getLsbD {w n : Nat} (pick : Fin n → Bool) (i : Nat) (hi : i < w) :
    ∀ (ns : List (Fin n)) (acc : BitVec w),
      (ns.foldl (fun acc n => if pick n then acc ||| (1#w <<< n.val) else acc) acc).getLsbD i =
        (acc.getLsbD i || ns.any fun n => pick n && decide (n.val = i))
  | [], acc => by simp
  | m :: ns, acc => by
    rw [List.foldl_cons, foldl_setBits_getLsbD pick i hi ns, List.any_cons, ← Bool.or_assoc]
    congr 1
    cases pick m
    · simp
    · exact (withBit_getLsbD acc m.val i hi).trans (by simp [eq_comm])

/-- The set of active lines has the bit of each active line and no other (R164). -/
theorem active_getLsbD (o : OutputUnit) {i : Nat} (hi : i < 32) :
    o.active.getLsbD i = (List.finRange 8).any fun n => (o.lines[n]).level && decide (n.val = i) := by
  have bits := foldl_setBits_getLsbD (fun n : Fin 8 => (o.lines[n]).level) i hi (List.finRange 8) 0#32
  rwa [BitVec.getLsbD_zero, Bool.false_or] at bits

theorem active_line (o : OutputUnit) (m : Fin 8) : o.active.getLsbD m.val = (o.lines[m]).level := by
  rw [active_getLsbD o (by omega), Bool.eq_iff_iff]
  simp [← Fin.ext_iff]

theorem active_lt (o : OutputUnit) : o.active.toNat < 256 := by
  refine Nat.lt_pow_two_of_testBit (n := 8) _ fun i hi => ?_
  rw [BitVec.testBit_toNat]
  by_cases word : i < 32
  · rw [active_getLsbD o word, List.any_eq_false]
    intro n _
    have : n.val ≠ i := by omega
    simp [this]
  · exact BitVec.getLsbD_of_ge _ _ (Nat.not_lt.1 word)

/-- One record is replaced, its level by the new owner (R164); the others and the view are left alone. -/
theorem configure_line_same (o : OutputUnit) (n : Fin 8) (l : Line) :
    (o.configure n l).lines[n] = { l with level := (match l.owner with
      | .direct => l.level
      | .linked => l.wanted o.view) } :=
  Vector.getElem_set_self _

theorem configure_line_other (o : OutputUnit) {n m : Fin 8} (h : m ≠ n) (l : Line) : (o.configure n l).lines[m] = o.lines[m] :=
  Vector.getElem_set_ne n.isLt m.isLt (fun e => h (Fin.ext e.symm))

theorem setLevels_line (o : OutputUnit) (lines : BitVec 8) (levels : Vector Bool 8) (m : Fin 8) :
    (o.setLevels lines levels).lines[m] =
      if lines.getLsbD m.val then { o.lines[m] with level := levels[m] } else o.lines[m] := by
  simp [OutputUnit.setLevels]

theorem anyLinked_iff (o : OutputUnit) (lines : BitVec 8) :
    o.anyLinked lines = true ↔ ∃ m : Fin 8, lines.getLsbD m.val = true ∧ (o.lines[m]).owner = .linked := by
  simp [OutputUnit.anyLinked]

section
variable {s : State} {h : Held}

theorem exec_configOutput {n : Fin 8} {l : Line} (hw : s.Working h (.configOutput n l)) :
    exec .configOutput s = .next (applyConfigOutput h n l s) :=
  congrArg Host.Outcome.next ((workingStep_eq hw rfl).trans (receiveTogether_answer _ _ rfl))

variable {lines : BitVec 8} {levels : Vector Bool 8} (hw : s.Working h (.setOutputs lines levels))
include hw

theorem exec_setOutputs_refuses (linked : s.out.anyLinked lines = true) :
    exec .setOutputs s = .next (answer h (Answer.refused .wrongOwner) s) := by
  have refuses : applySetOutputs h lines levels s = answer h (Answer.refused .wrongOwner) s := if_pos linked
  refine congrArg Host.Outcome.next ((workingStep_eq hw rfl).trans ?_)
  rw [refuses]
  exact receiveTogether_answer _ _ rfl

theorem exec_setOutputs_sets (direct : s.out.anyLinked lines = false) : exec .setOutputs s = .next
    (answer h (Answer.done (s.out.setLevels lines levels).active) (s.setOut (s.out.setLevels lines levels))) := by
  have sets : applySetOutputs h lines levels s =
      answer h (Answer.done (s.out.setLevels lines levels).active) (s.setOut (s.out.setLevels lines levels)) :=
    if_neg (by simp [direct])
  refine congrArg Host.Outcome.next ((workingStep_eq hw rfl).trans ?_)
  rw [sets]
  exact receiveTogether_answer _ _ rfl

end

/-- Settles O22: CONFIG_OUTPUT by the new owner, SET_OUTPUTS by whether a line of the set is LINKED; the answer's value is the
set of active lines. -/
theorem outputRequestsApplied : Obligations.OutputRequestsApplied := by
  refine fun s h => ⟨fun n l hw => ?_, fun lines levels hw => ⟨fun linked => ?_, fun direct => ?_⟩⟩
  · exact ⟨s.out.configure n l, _, exec_configOutput hw, configure_line_same s.out n l, rfl,
      fun m hm => configure_line_other s.out hm l, active_lt _, fun m => active_line _ m⟩
  · exact exec_setOutputs_refuses hw ((anyLinked_iff _ _).2 linked)
  · have none_linked : s.out.anyLinked lines = false := by
      refine Bool.eq_false_iff.2 fun linked => ?_
      obtain ⟨m, named, owner⟩ := (anyLinked_iff _ _).1 linked
      cases (direct m named).symm.trans owner
    exact ⟨s.out.setLevels lines levels, _, exec_setOutputs_sets hw none_linked, rfl, setLevels_line _ _ _, active_lt _,
      fun m => active_line _ m⟩

/-! ### Pins and reports (R160 to R162, R166) -/

/-- Every line of a unit that a reset leaves has drive OFF (R159, R168). -/
theorem outPin_of_reset {t : State} (reset : t.out = OutputUnit.reset) (n : Fin 8) : t.outPin n = .highZ := by
  have line : t.out.lines[n] = Line.reset := by simp [reset, OutputUnit.reset]
  rw [State.outPin, line]
  rfl

theorem controlWrite_resets {s : State} {data : Word} (free : s.ctl.resetHeld = false) (reset : Control.reset data = true) :
    controlWrite data s = softwareReset s := by
  simp [controlWrite, free, reset]

/-- A report is taken unless an entry to FAULTED comes first, and counts toward an entry that comes later (R166). -/
theorem report_taken {o : OutputUnit} (h : o.entryAfter ≠ some 0) (p : PointId) (st : PointState) :
    o.report p st = { o.take p st with entryAfter := o.entryAfter.map (· - 1) } := by
  obtain ⟨lines, view, entryAfter⟩ := o
  rcases entryAfter with _ | _ | n
  · rfl
  · exact absurd rfl h
  · rfl

theorem report_untaken {o : OutputUnit} (h : o.entryAfter = some 0) (p : PointId) (st : PointState) : o.report p st = o := by
  simp [OutputUnit.report, h]

theorem take_line (o : OutputUnit) (p : PointId) (st : PointState) (n : Fin 8) :
    (o.take p st).lines[n] =
      if (o.lines[n]).owner = .linked ∧ inSet (o.lines[n]).linkSet p = true then
        { o.lines[n] with level := (o.lines[n]).wanted (o.take p st).view } else o.lines[n] := by
  simp [OutputUnit.take]

theorem take_line_linked {o : OutputUnit} {p : PointId} {n : Fin 8} (linked : (o.lines[n]).owner = .linked)
    (holds : inSet (o.lines[n]).linkSet p = true) (st : PointState) :
    (o.take p st).lines[n] = { o.lines[n] with level := (o.lines[n]).wanted (o.take p st).view } :=
  (take_line o p st n).trans (if_pos ⟨linked, holds⟩)

theorem take_line_other {o : OutputUnit} {p : PointId} {n : Fin 8}
    (other : (o.lines[n]).owner = .direct ∨ inSet (o.lines[n]).linkSet p = false) (st : PointState) :
    (o.take p st).lines[n] = o.lines[n] := by
  refine (take_line o p st n).trans (if_neg ?_)
  rintro ⟨linked, holds⟩
  rcases other with direct | outside
  · cases direct.symm.trans linked
  · cases outside.symm.trans holds

/-- R162's table. -/
theorem pin_eq (l : Line) : l.pin = match l.drive, l.level with
    | .pushPullHigh, true => .high
    | .pushPullHigh, false => .low
    | .openDrainLow, true => .low
    | .openDrainLow, false => .highZ
    | .off, _ => .highZ := by
  obtain ⟨owner, drive, linkSet, linkStates, faultLevel, level⟩ := l
  cases drive <;> cases level <;> rfl

/-- Settles O37: the pins by R162's table and by the lines that a reset leaves, a report by whether it is taken. -/
theorem pinsShowLines : Obligations.PinsShowLines := by
  refine ⟨fun s n => pin_eq _, fun s t low n run => ?_, fun s t data n free reset run => ?_, fun o o' p st report => ?_⟩
  · cases run
    exact outPin_of_reset rfl n
  · cases run
    exact outPin_of_reset (by rw [controlWrite_resets free reset]; rfl) n
  · subst report
    refine ⟨fun first => report_untaken first p st, fun taken => ?_⟩
    rw [report_taken taken]
    refine ⟨rfl, (OutputUnit.take_view o p p st).trans (if_pos rfl),
      fun q hq => (OutputUnit.take_view o p q st).trans (if_neg hq), fun n l hl => ?_⟩
    subst hl
    exact ⟨fun linked holds => ⟨_, take_line_linked linked holds st, Line.wanted_iff _ _⟩,
      fun other => take_line_other other st⟩

/-! ### What the ends of frames keep -/

/-- `P` is kept by the parts that frames and the expiries in their ends are made of: an admission check, a frame's end up to
the request that waits for it, a boundary request applied, a request marked as one that waits, and changes of the scan
engine's own items, the points left alone. -/
structure KeptInFrames (P : State → Prop) : Prop where
  admits : ∀ {s : State}, P s → P (admissionCheck s)
  leaves : ∀ {s : State} (x : EndExpiries), P s → P (leaveScanning x s)
  applies : ∀ {s : State}, P s → P (applyWaiting s)
  walks : ∀ {s : State} (w : Walker), P s → P (s.setWk w)
  runs : ∀ {s : State} {e : ScanEngine}, e.points = s.eng.points → P s → P (s.setEng e)

namespace KeptInFrames

variable {P : State → Prop} (kept : KeptInFrames P)
include kept

theorem applyReached {s : State} (h : P s) : P (applyReached s) := by
  unfold Machine.applyReached
  split
  · exact kept.applies h
  · exact h

theorem reachEngine {s : State} (h : P s) : P (reachEngine s) := by
  unfold Machine.reachEngine
  split
  · exact kept.applies h
  · exact kept.walks _ h

theorem endFrame {s : State} (h : P s) : P (endFrame s) := kept.applies (kept.leaves _ h)

theorem admitsPending {s : State} (h : P s) : P (admissionCheck (s.setEng { s.eng with startPending := false })) :=
  kept.admits (kept.runs rfl h)

theorem finishPlain {s : State} (h : P s) : P (finishPlain s) := by
  have ends := kept.endFrame h
  have admits := kept.admitsPending ends
  unfold Machine.finishPlain
  dsimp only
  split
  · split
    · split
      · exact kept.endFrame admits
      · exact admits
    · exact ends
  · exact h

section
variable {finish : List EndExpiries → State → List EndExpiries × State}
  (finishes : ∀ (l : List EndExpiries) (x : State), P x → P (finish l x).2)
include finishes

/-- An expiry keeps what the end of a frame that it begins keeps. -/
theorem expire {s : State} (h : P s) (ends : List EndExpiries) : P (expire finish ends s).2 := by
  unfold Machine.expire
  split
  · exact h
  · split
    · exact finishes _ _ (kept.admits (kept.runs rfl h))
    · exact kept.runs (SensePoints.expiredInFrame_points _) h
    · exact kept.runs rfl h
    · exact kept.runs rfl h

theorem expireTimes : ∀ (n : Nat) {s : State} (_ : P s) (ends : List EndExpiries), P (expireTimes finish n ends s).2
  | 0, _, h, _ => h
  | n + 1, _, h, ends => expireTimes n (kept.expire finishes h ends) _

end

theorem finishFrame : ∀ (n : Nat) (ends : List EndExpiries) (s : State), P s → P (finishFrame n ends s).2
  | 0, _, _, h => kept.finishPlain h
  | _ + 1, [], _, h => kept.finishPlain h
  | n + 1, x :: xs, s, h => by
    have finishes := finishFrame n
    have reached := kept.applyReached (kept.leaves x h)
    unfold Machine.finishFrame
    dsimp only
    split
    · have expired := kept.expireTimes finishes x.unreached reached xs
      generalize Machine.expireTimes (Machine.finishFrame n) x.unreached xs _ = r at expired ⊢
      have left := kept.expireTimes finishes x.left (kept.reachEngine expired) r.1
      generalize Machine.expireTimes (Machine.finishFrame n) x.left r.1 _ = r' at left ⊢
      split
      · exact finishes _ _ (kept.admitsPending left)
      · exact left
    · exact h

theorem frameExpiry {s : State} (h : P s) (ends : List EndExpiries) : P (frameExpiry ends s) :=
  kept.expire (kept.finishFrame _) h ends

end KeptInFrames

/-! ### The view goes with the point table (R43, R160) -/

/-- What leaves the view and every point's state alone, and does not leave FAULTED, keeps the view with the table. -/
theorem viewFollows_of_states {s t : State} (h : s.ViewFollows) (op : s.ctl.op = .faulted → t.ctl.op = .faulted)
    (entry : t.out.entryAfter = s.out.entryAfter) (view : t.out.view = s.out.view)
    (states : ∀ p, (t.point p).state = (s.point p).state) : t.ViewFollows := by
  obtain ⟨clear, follows⟩ := h
  refine ⟨entry.trans clear, fun out p => ?_⟩
  rw [view, states]
  exact follows (fun faulted => out (op faulted)) p

/-- What leaves the output unit and the point table alone, and does not leave FAULTED, keeps the view with the table. -/
theorem viewFollows_of_kept {s t : State} (h : s.ViewFollows)
    (kept : (s.ctl.op = .faulted → t.ctl.op = .faulted) ∧ t.out = s.out ∧ t.eng.points = s.eng.points) : t.ViewFollows := by
  obtain ⟨op, out, points⟩ := kept
  exact viewFollows_of_states h op (by rw [out]) (by rw [out]) fun p => by rw [State.point, points, State.point]

/-- With no entry to FAULTED before it a report leaves none (R166). -/
theorem updatePoint_entryAfter {s : State} (clear : s.out.entryAfter = none) (p : PointId) (x : Point) :
    (s.updatePoint p x).out.entryAfter = none := by
  rw [State.updatePoint_out]
  split
  · exact clear
  · exact SensePoints.report_entryAfter clear _ _

theorem updatePoint_view_other {s : State} (clear : s.out.entryAfter = none) {p q : PointId} (hq : q ≠ p) (x : Point) :
    (s.updatePoint p x).out.view[q] = s.out.view[q] := by
  rw [State.updatePoint_out]
  split
  · rfl
  · rw [OutputUnit.report_take clear, OutputUnit.take_view, if_neg hq]

section
variable {s : State} (h : s.ViewFollows)
include h

/-- A change of a point's state is reported, and the report is taken (R43, R160). -/
theorem viewFollows_updatePoint (p : PointId) (x : Point) : (s.updatePoint p x).ViewFollows := by
  obtain ⟨clear, follows⟩ := h
  refine ⟨updatePoint_entryAfter clear p x, fun out q => ?_⟩
  have ok := follows (by simpa using out)
  by_cases e : q = p
  · rw [e, State.updatePoint_point]
    exact State.updatePoint_view s p x clear (ok p)
  · rw [updatePoint_view_other clear e, State.updatePoint_other s e]
    exact ok q

theorem viewFollows_setPoint (p : PointId) {x : Point} (same : x.state = (s.point p).state) : (s.setPoint p x).ViewFollows := by
  refine viewFollows_of_states h (by simp) (by simp) (by simp) fun q => ?_
  by_cases e : q = p
  · rw [e, State.point_setPoint_same, same]
  · rw [State.point_setPoint_other s e]

theorem viewFollows_setBusy (p : PointId) (b : Bool) : (s.setBusy p b).ViewFollows := viewFollows_setPoint h p rfl

/-! The converter and the spot unit touch no point's state (R47, R53, R59) -/

theorem viewFollows_grantScan (p : PointId) : (grantScan p s).ViewFollows := by
  refine viewFollows_of_kept (viewFollows_setPoint h p (x := (s.point p).atGrant) ?_) (by simp [grantScan])
  unfold Point.atGrant
  split <;> rfl

theorem viewFollows_requestScan (p : PointId) : (requestScan p s).ViewFollows := by
  unfold requestScan
  split
  · exact viewFollows_grantScan h p
  · exact h

theorem viewFollows_releaseConverter : (releaseConverter s).ViewFollows := by
  unfold releaseConverter
  dsimp only
  split
  · exact viewFollows_of_kept h (by simp)
  split
  · split
    · exact viewFollows_grantScan (s := s.setArb { s.arb with grant := .free }) h _
    · exact h
  · exact h

theorem viewFollows_endSpot (k : SpotHeld) (code : ResultCode) (value : Word) (params : List Word) :
    (endSpot k code value params s).ViewFollows :=
  viewFollows_of_kept (viewFollows_setBusy h k.point false) (by simp [RequestChain.endSpot_eng])

theorem viewFollows_orderSpotEnd (code : ResultCode) : (orderSpotEnd code s).ViewFollows := by
  refine viewFollows_of_states h (by simp) (by simp) (by simp) fun p => ?_
  obtain ⟨b, point⟩ := orderSpotEnd_point code s p
  rw [point]

theorem viewFollows_acceptSpot (hd : Held) (p : PointId) (m : Nat) : (acceptSpot hd p m s).ViewFollows :=
  viewFollows_of_kept (viewFollows_setBusy h p true) (by simp [RequestChain.acceptSpot_eng])

theorem viewFollows_acceptWaitingSpot : (acceptWaitingSpot s).ViewFollows := by
  unfold acceptWaitingSpot
  split
  · split
    · exact viewFollows_acceptSpot h _ _ _
    · exact h
  · exact h

theorem viewFollows_spotConversion (c : Half) : (spotConversion c s).ViewFollows := by
  unfold spotConversion
  dsimp only
  split
  · exact viewFollows_endSpot (viewFollows_releaseConverter h) _ _ _ _
  · split
    · exact h
    · exact viewFollows_endSpot (viewFollows_releaseConverter h) _ _ _ _
  · exact h

theorem viewFollows_applySpot (hd : Held) (p : PointId) (m : Nat) : (applySpot hd p m s).ViewFollows := by
  have refused (code : ResultCode) : (answer hd (Answer.refused code) s).ViewFollows := viewFollows_of_kept h (by simp)
  unfold applySpot
  split
  · exact refused _
  split
  · exact refused _
  · exact refused _
  · split
    · exact viewFollows_acceptSpot h hd p m
    · exact viewFollows_orderSpotEnd (s := s.walkTo (.workingSpot hd)) h _

/-! The output requests change no entry of the view (R164, R165) -/

theorem viewFollows_applyConfigOutput (hd : Held) (n : Fin 8) (l : Line) : (applyConfigOutput hd n l s).ViewFollows :=
  viewFollows_of_states h (by simp) rfl rfl fun _ => rfl

theorem viewFollows_applySetOutputs (hd : Held) (lines : BitVec 8) (levels : Vector Bool 8) :
    (applySetOutputs hd lines levels s).ViewFollows := by
  unfold applySetOutputs
  split
  · exact viewFollows_of_kept h (by simp)
  · exact viewFollows_of_states h (by simp) rfl rfl fun _ => rfl

/-! A boundary request's changes of state are reported (R50, R54) -/

theorem viewFollows_abortSpotOn (p : PointId) : (abortSpotOn p s).ViewFollows := by
  unfold abortSpotOn
  split
  · exact viewFollows_setBusy (viewFollows_orderSpotEnd h _) p false
  · exact h

theorem viewFollows_applyConfigPoint (hd : Held) (p : PointId) (cfg : Settings) : (applyConfigPoint hd p cfg s).ViewFollows :=
  viewFollows_of_kept (viewFollows_updatePoint (viewFollows_abortSpotOn h p) p (((abortSpotOn p s).point p).configure cfg))
    (by simp [applyConfigPoint])

theorem viewFollows_applyReleasePoint (hd : Held) (p : PointId) : (applyReleasePoint hd p s).ViewFollows :=
  viewFollows_of_kept (viewFollows_updatePoint (viewFollows_abortSpotOn h p) p ((abortSpotOn p s).point p).release)
    (by simp [applyReleasePoint])

theorem viewFollows_mapSet (set : PointSet) {f : Point → Point} (same : ∀ pt : Point, (f pt).state = pt.state) :
    (s.setEng { s.eng with points := mapSet set f s.eng.points }).ViewFollows := by
  refine viewFollows_of_states h (by simp) rfl rfl fun p => ?_
  simp only [State.point, State.setEng_eng, mapSet, Fin.getElem_fin, Vector.getElem_ofFn]
  split
  · exact same _
  · rfl

theorem viewFollows_applyRecalibrate (hd : Held) (set : PointSet) : (applyRecalibrate hd set s).ViewFollows :=
  viewFollows_of_kept (viewFollows_mapSet h set (f := Point.armRecal) fun pt => by unfold Point.armRecal; split <;> rfl)
    (by simp [applyRecalibrate])

theorem viewFollows_applyReseed (hd : Held) (set : PointSet) : (applyReseed hd set s).ViewFollows :=
  viewFollows_of_kept (viewFollows_mapSet h set (f := Point.armReseed) fun pt => by unfold Point.armReseed; split <;> rfl)
    (by simp [applyReseed])

theorem viewFollows_applyBoundary (hd : Held) (r : Request) : (applyBoundary hd r s).ViewFollows := by
  cases r with
  | configPoint p cfg => exact viewFollows_applyConfigPoint h hd p cfg
  | releasePoint p => exact viewFollows_applyReleasePoint h hd p
  | recalibrate set => exact viewFollows_applyRecalibrate h hd set
  | reseed set => exact viewFollows_applyReseed h hd set
  | configGroup i g => exact viewFollows_of_kept h (by simp [applyBoundary])
  | setTiming t => exact viewFollows_of_kept h (by simp [applyBoundary])
  | snapshot buffer set => exact viewFollows_of_kept h (by simp [applyBoundary])
  | mark tag => exact viewFollows_of_kept h (by simp [applyBoundary])
  | _ => exact h

theorem viewFollows_applyWaiting : (applyWaiting s).ViewFollows := by
  unfold applyWaiting
  split
  · exact viewFollows_applyBoundary h _ _
  · exact h

/-! A frame's changes of state are reported (R42, R43, R67) -/

theorem viewFollows_startSlot (p : PointId) : (startSlot p s).ViewFollows := by
  unfold startSlot
  dsimp only
  refine viewFollows_requestScan ?_ p
  split
  · exact viewFollows_of_kept (viewFollows_updatePoint h p (s.point p).takeRecal) ⟨id, rfl, rfl⟩
  · exact h

theorem viewFollows_runSlots : ∀ ps : List PointId, (runSlots ps s).ViewFollows
  | [] => h
  | p :: ps => by
    unfold runSlots
    split
    · exact viewFollows_startSlot h p
    · exact viewFollows_runSlots ps

theorem viewFollows_measurePoint (p : PointId) (c : Half) : (measurePoint p c s).ViewFollows :=
  viewFollows_of_kept (viewFollows_updatePoint h p (measure p (s.point p) (groupView s.eng.points s.eng.groups p) c).pt)
    (by simp [measurePoint])

theorem viewFollows_admissionCheck : (admissionCheck s).ViewFollows := by
  have asked := askRoom_keeps s s.eng.reservation
  unfold admissionCheck
  generalize askRoom s.eng.reservation s = answer at asked ⊢
  obtain ⟨room, t⟩ := answer
  obtain ⟨(ctl : t.ctl = s.ctl), -, (eng : t.eng = s.eng), -, -, -, (out : t.out = s.out), -⟩ := asked
  cases room
  · exact viewFollows_of_kept h (by simp [skipFrame, ctl, eng, out])
  · exact viewFollows_runSlots (viewFollows_of_kept h (by simp [enterFrame, ctl, eng, out])) _

end

theorem viewFollows_keptInFrames : KeptInFrames State.ViewFollows where
  admits := viewFollows_admissionCheck
  leaves x h := viewFollows_of_kept h (by simp [SensePoints.leaveScanning_points])
  applies := viewFollows_applyWaiting
  walks _ h := h
  runs points h := viewFollows_of_kept h ⟨id, rfl, points⟩

section
variable {s : State} (h : s.ViewFollows)
include h

theorem viewFollows_cutEnd : (cutEnd s).ViewFollows :=
  viewFollows_applyWaiting (viewFollows_of_kept h (by simp [SensePoints.leaveCut_points]))

theorem viewFollows_scanConversion (c : Half) (ends : List EndExpiries) : (scanConversion c ends s).ViewFollows := by
  unfold scanConversion
  dsimp only
  split
  · rename_i p _ _
    have released := viewFollows_releaseConverter (viewFollows_measurePoint h p c)
    split
    · exact viewFollows_keptInFrames.finishFrame _ _ _ (viewFollows_runSlots released _)
    · exact viewFollows_cutEnd released
    · exact released
    · exact released
  · exact h

omit h in
theorem viewFollows_scanEvent {f : State → State} (event : (f s.eventBegun).ViewFollows) : (scanEvent f s).ViewFollows :=
  viewFollows_of_kept event (by simp)

/-! ### CONTROL writes, resets and memory faults (R172, R174, R176, R166) -/

theorem viewFollows_stopScan : (stopScan s).ViewFollows := by
  have cut := viewFollows_cutEnd (s := withdrawScan (s.setEng { s.eng with frameTimer := none })) h
  unfold stopScan
  dsimp only
  split
  · exact h
  · split
    · exact h
    · exact cut
    · exact cut
  · exact h
  · exact h

/-- The stop order reaches the units in RUNNING (R172). -/
theorem viewFollows_stopOrder (running : s.ctl.op = .running) : (stopOrder s).ViewFollows := by
  have stopping : (s.setCtl { s.ctl with op := .stopping, run := false, refusedWrite := false }).ViewFollows :=
    viewFollows_of_kept h ⟨by simp [running], rfl, rfl⟩
  exact viewFollows_of_kept (viewFollows_orderSpotEnd (viewFollows_stopScan stopping) .aborted) (by simp [stopOrder])

theorem viewFollows_changeRun : (changeRun s).ViewFollows := by
  unfold changeRun
  split
  · rename_i op
    exact viewFollows_of_kept h (by simp [op])
  · rename_i op
    exact viewFollows_stopOrder h op
  · rename_i op
    exact viewFollows_of_kept h (by simp [op, resumeRunning])
  all_goals exact h

omit h in
theorem reset_viewFollows : State.reset.ViewFollows :=
  ⟨rfl, fun _ p => by simp [State.point, State.reset, ScanEngine.reset, OutputUnit.reset, Point.reset]⟩

omit h in
/-- The view and the point table are reset together (R160). -/
theorem viewFollows_of_reset {t : State} (out : t.out = OutputUnit.reset) (eng : t.eng = ScanEngine.reset) : t.ViewFollows :=
  viewFollows_of_kept reset_viewFollows ⟨nofun, out, congrArg ScanEngine.points eng⟩

theorem viewFollows_controlWrite (data : Word) : (controlWrite data s).ViewFollows := by
  unfold controlWrite
  split
  · exact h
  split
  · exact viewFollows_of_reset rfl rfl
  split
  · refine viewFollows_of_kept h ⟨?_, by simp, by simp⟩
    unfold acceptControl
    split <;> simp
  · exact viewFollows_of_kept (viewFollows_changeRun h) (by simp)

omit h in
/-- In FAULTED the table may be ahead of the view, and the entry is over (R166, log entry 29). -/
theorem memoryFault_viewFollows {a : Access} {rest : List Access} (hp : s.port = a :: rest) (kind : FaultKind) (cause : Cause) :
    (memoryFault kind cause s).ViewFollows := by
  unfold memoryFault
  rw [hp]
  exact ⟨rfl, fun out => absurd rfl out⟩

theorem viewFollows_racedFault (kind : FaultKind) (cause : Cause) (race : Option FaultRace) :
    (racedFault kind cause race s).ViewFollows := by
  unfold racedFault
  split
  · exact h
  · rename_i hp
    exact memoryFault_viewFollows hp kind cause
  · rename_i hp
    exact memoryFault_viewFollows (s := beforeFault _ s) hp kind cause

/-! ### The accesses that complete -/

/-- The header's read leaves LOADING (R170, R171). -/
theorem viewFollows_headerRead (half : Vector Word 8) : (headerRead half s).ViewFollows := by
  unfold headerRead
  split
  · rename_i loads
    obtain ⟨-, op⟩ := loads
    split <;> exact viewFollows_of_kept h (by simp [op, enterRunning])
  · exact h

theorem viewFollows_linkRead (link : Word) : (linkRead link s).ViewFollows :=
  viewFollows_of_kept h (by unfold linkRead; (repeat' split) <;> simp)

theorem viewFollows_blockRead (block : Vector Word 16) : (blockRead block s).ViewFollows :=
  viewFollows_of_kept h (by unfold blockRead; (repeat' split) <;> simp)

theorem viewFollows_takenWritten : (takenWritten s).ViewFollows :=
  viewFollows_of_kept h (by unfold takenWritten; (repeat' split) <;> simp)

theorem viewFollows_resultWritten : (resultWritten s).ViewFollows :=
  viewFollows_of_kept h (by unfold resultWritten; (repeat' split) <;> simp)

theorem viewFollows_closedWritten : (closedWritten s).ViewFollows :=
  viewFollows_of_kept h (by unfold closedWritten; (repeat' split) <;> simp)

theorem viewFollows_snapshotWritten : (snapshotWritten s).ViewFollows :=
  viewFollows_of_kept h (by unfold snapshotWritten; dsimp only; (repeat' split) <;> simp)

theorem viewFollows_journalWritten : (journalWritten s).ViewFollows :=
  viewFollows_of_kept h (by unfold journalWritten; dsimp only; (repeat' split) <;> simp)

theorem viewFollows_mirrorWritten : (mirrorWritten s).ViewFollows :=
  viewFollows_of_kept h (by unfold mirrorWritten; split <;> simp)

theorem viewFollows_spotClosed : (spotClosed s).ViewFollows := by
  unfold spotClosed
  split
  · exact viewFollows_acceptWaitingSpot (viewFollows_of_kept h (by simp))
  · exact h

/-- The CLOSED write of a spot lets a waiting SPOT in (R152, R153). -/
theorem viewFollows_spotWritten : (spotWritten s).ViewFollows := by
  have next : (nextSpotWrite (retire s)).ViewFollows := viewFollows_of_kept h (by simp)
  unfold spotWritten
  dsimp only
  split
  · split
    · split
      · exact viewFollows_of_kept (viewFollows_spotClosed next) ⟨id, rfl, rfl⟩
      · exact viewFollows_of_kept next ⟨id, rfl, rfl⟩
    · exact h
  · exact h

/-! ### Every step keeps the view with the table -/

theorem viewFollows_workingStep {f : Held → Request → Option State} (done : ∀ hd r t, f hd r = some t → t.ViewFollows) :
    (workingStep f s).ViewFollows :=
  workingStep_ind (P := State.ViewFollows) h (fun _ _ ht => viewFollows_of_kept ht ⟨id, rfl, rfl⟩)
    fun hd r t _ e => done hd r t e

/-- A boundary kind's command carries out the request that the walker holds, and nothing else. -/
theorem viewFollows_boundaryStep {f : Held → Request → Option State}
    (done : ∀ hd r t, f hd r = some t → applyBoundary hd r s = t) : (boundaryStep f s).ViewFollows :=
  boundaryStep_ind (P := State.ViewFollows) h (fun _ _ ht => viewFollows_of_kept ht ⟨id, rfl, rfl⟩) (fun _ => h)
    fun hd r t _ _ e => done hd r t e ▸ viewFollows_applyBoundary h hd r

theorem exec_viewFollows (c : Instr) : ∃ t, exec c s = .next t ∧ t.ViewFollows := by
  cases c
  case hardwareReset low => exact ⟨_, rfl, viewFollows_of_reset rfl rfl⟩
  case softwareReset data | runSet data | runClear data | resume data | look data | acceptedControlWrite data =>
    exact ⟨_, rfl, viewFollows_controlWrite h data⟩
  case areaBaseWrite data =>
    refine ⟨_, rfl, viewFollows_of_kept h ?_⟩
    unfold areaBaseWrite
    (repeat' split) <;> simp
  case attnEnableWrite data =>
    refine ⟨_, rfl, viewFollows_of_kept h ?_⟩
    unfold attnEnableWrite
    split <;> simp
  case attentionRead =>
    refine ⟨_, rfl, viewFollows_of_kept h ?_⟩
    unfold attentionRead
    split <;> simp
  case serviceWrite data =>
    refine ⟨_, rfl, viewFollows_of_kept h ?_⟩
    unfold serviceWrite
    (repeat' split) <;> simp
  case ignoredRegisterWrite | lateResponse | resetnRise => exact ⟨_, rfl, h⟩
  case headerReadComplete half => exact ⟨_, rfl, viewFollows_headerRead h half⟩
  case errorResponse race | responseLimitExpiry race => exact ⟨_, rfl, viewFollows_racedFault h _ _ race⟩
  case linkReadComplete link => exact ⟨_, rfl, viewFollows_linkRead h link⟩
  case blockReadComplete block => exact ⟨_, rfl, viewFollows_blockRead h block⟩
  case takenWriteComplete => exact ⟨_, rfl, viewFollows_takenWritten h⟩
  case resultWriteComplete => exact ⟨_, rfl, viewFollows_resultWritten h⟩
  case closedWriteComplete => exact ⟨_, rfl, viewFollows_closedWritten h⟩
  case configOutput =>
    refine ⟨_, rfl, viewFollows_workingStep h fun hd r t e => ?_⟩
    split at e <;> cases e
    exact viewFollows_applyConfigOutput h hd _ _
  case setOutputs =>
    refine ⟨_, rfl, viewFollows_workingStep h fun hd r t e => ?_⟩
    split at e <;> cases e
    exact viewFollows_applySetOutputs h hd _ _
  case givePages | reclaimPages | flushJournal =>
    refine ⟨_, rfl, viewFollows_workingStep h fun hd r t e => ?_⟩
    split at e <;> cases e
    exact viewFollows_of_kept h (by simp)
  case spot =>
    refine ⟨_, rfl, viewFollows_workingStep h fun hd r t e => ?_⟩
    split at e <;> cases e
    exact viewFollows_applySpot h hd _ _
  case configPoint | releasePoint | configGroup | setTiming | recalibrate | reseed | snapshot | mark =>
    refine ⟨_, rfl, viewFollows_boundaryStep h fun hd r t e => ?_⟩
    split at e <;> cases e
    rfl
  case frameTimerExpiry ends =>
    exact ⟨_, rfl, viewFollows_scanEvent (viewFollows_keptInFrames.frameExpiry (s := s.eventBegun) h ends)⟩
  case scanConversionComplete count ends =>
    exact ⟨_, rfl, viewFollows_scanEvent (viewFollows_scanConversion (s := s.eventBegun) h count ends)⟩
  case spotSubconversionComplete count => exact ⟨_, rfl, viewFollows_of_kept (viewFollows_spotConversion h count) (by simp)⟩
  case spotWriteComplete => exact ⟨_, rfl, viewFollows_spotWritten h⟩
  case snapshotRecordWriteComplete => exact ⟨_, rfl, viewFollows_snapshotWritten h⟩
  case journalWriteComplete => exact ⟨_, rfl, viewFollows_journalWritten h⟩
  case lingerExpiry => exact ⟨_, rfl, viewFollows_of_kept h (by simp)⟩
  case mirrorWriteComplete => exact ⟨_, rfl, viewFollows_mirrorWritten h⟩
  case enterStopped =>
    refine ⟨_, rfl, viewFollows_of_kept h ⟨fun faulted => ?_, by simp, by simp⟩⟩
    simp [enterStopped, faulted]

end

/-- Settles O58: an empty queue idles, and every command keeps the view with the table, whatever the queue's rest. -/
theorem viewFollowsTable : Obligations.ViewFollowsTable := by
  intro s t h e
  unfold step at e
  split at e
  · cases e
    exact h
  · rename_i c rest _
    obtain ⟨u, hu, follows⟩ := exec_viewFollows (s := s.setPending rest) h c
    rw [hu] at e
    cases e
    exact follows

end Sys2Proof.Machine.OutputLines
end

section
/-! SUPPORT. 11_operating_states_registers_and_attention.md, proved: what the resets, the CONTROL writes and the stop order
lead to, how the attention registers act on the classes, what every command makes of the fault kind and FAULT_ADDR, the entry to
STOPPED, and the state after reset. -/

namespace Sys2Proof.Machine.OperatingStates

/-! ### Resets (R176) -/

/-- With no burst in flight but a page header's, a reset leaves memory as last written (R13, R37, R155, R147). -/
theorem resetUnits_mem {s : State} (whole : ∀ a rest, s.port = a :: rest → a.LeavesMemory) : (resetUnits s).mem = s.mem := by
  show (abandonAccesses Access.writesHeader s).mem = s.mem
  cases hp : s.port with
  | nil => rw [abandonAccesses_nil hp]
  | cons a rest => exact abandonAccesses_leaves hp (whole a rest hp).leaves

theorem hardwareReset_unitsAtReset (low : Bool) (s : State) : (hardwareReset low s).UnitsAtReset :=
  ⟨rfl, rfl, rfl, rfl, rfl, rfl, rfl⟩

theorem softwareReset_unitsAtReset (s : State) : (softwareReset s).UnitsAtReset :=
  ⟨rfl, rfl, rfl, rfl, rfl, rfl, rfl⟩

theorem point_of_reset {s : State} (h : s.eng = ScanEngine.reset) (p : PointId) : s.point p = Point.reset := by
  simp [State.point, h, ScanEngine.reset]

theorem group_of_reset {s : State} (h : s.eng = ScanEngine.reset) (i : Fin 4) : s.eng.groups[i] = Group.reset := by
  simp [h, ScanEngine.reset]

theorem line_of_reset {s : State} (h : s.out = OutputUnit.reset) (n : Fin 8) : s.out.lines[n] = Line.reset := by
  simp [h, OutputUnit.reset]

theorem view_of_reset {s : State} (h : s.out = OutputUnit.reset) (p : PointId) : s.out.view[p] = .disabled := by
  simp [h, OutputUnit.reset]

theorem idle_of_reset {s : State} (h : s.arb = State.reset.arb) : s.arb.Idle := by
  rw [h]
  exact ⟨rfl, rfl, rfl⟩

/-- Settles O3: the record of each table is the reset record, memory is left by `resetUnits_mem`, and the rest computes. -/
theorem hardwareResetClears : Obligations.HardwareResetClears := by
  constructor
  · rintro s ⟨wk, eng, arb, jrn, spt, mir, out⟩
    refine ⟨fun p => ?_, group_of_reset eng, ?_, ?_, ?_, ?_, ?_, ?_, ?_, ?_, ?_, ?_, ?_, idle_of_reset arb, jrn, spt, mir, wk,
      fun n => ⟨line_of_reset out n, OutputLines.outPin_of_reset out n⟩, by rw [out]; rfl, view_of_reset out⟩
    · rw [point_of_reset eng]
      exact ⟨rfl, rfl, rfl, rfl, rfl, rfl, rfl, rfl, rfl, rfl, rfl, rfl, rfl, rfl, rfl, rfl⟩
    all_goals
      rw [eng]
      rfl
  · intro heldLow s
    exact ⟨_, rfl, rfl, hardwareReset_unitsAtReset heldLow s, rfl, rfl, rfl, resetUnits_mem, rfl, rfl,
      congrArg some (show State.reset.readStatus = 0#32 by decide), rfl,
      congrArg some (show State.reset.readAttnEnable = 0#32 by decide), rfl, rfl, rfl⟩

/-- A class after a software reset keeps its enable alone (R176, R186). -/
theorem cleared_cls (a : Attention) (k : AttnClass) :
    a.cleared.cls k = { pending := false, causes := 0, inService := false, enabled := (a.cls k).enabled } := by
  cases k <;> rfl

theorem cleared_highest (a : Attention) : a.cleared.highest = none :=
  Attention.highest_none fun k => by simp [Attention.eligible, cleared_cls]

/-- With no class eligible the vector is NONE's and ATTN is low (R183, R184). -/
theorem attentionVector_none {s : State} (h : s.atn.highest = none) : s.attentionVector = 0x00FF0000#32 ∧ s.atn.attn = false := by
  rw [State.attentionVector, Attention.attn, h]
  exact ⟨rfl, rfl⟩

/-- Settles O4: a reset as the hardware's, and of the classes what their enables leave. -/
theorem softwareResetKeeps : Obligations.SoftwareResetKeeps := by
  intro c data s hc free reset
  obtain ⟨vector, attn⟩ := attentionVector_none (s := softwareReset s) (cleared_highest s.atn)
  refine ⟨softwareReset s, ?_, rfl, softwareReset_unitsAtReset s, rfl, rfl, rfl, resetUnits_mem, cleared_cls s.atn, attn, vector⟩
  rw [exec_control s hc, OutputLines.controlWrite_resets free reset]

/-- Settles O5: the register port is deaf while RESETn is held low, and four registers always are. -/
theorem ignoredRegisterWrites : Obligations.IgnoredRegisterWrites := by
  refine ⟨fun _ _ _ => ⟨rfl, rfl⟩, fun s => ⟨rfl, fun held data _ => ⟨fun c hc => ?_, ?_, ?_, ?_, rfl⟩⟩⟩
  · rw [exec_control s hc, controlWrite, if_pos held]
  all_goals exact congrArg Host.Outcome.next (if_pos held)

/-! ### CONTROL writes (R178, R170, R174) -/

/-- A CONTROL write that would change RUN acts by the operating state (R178 step 2). -/
theorem controlWrite_changes {data : Word} {s : State} (free : s.ctl.resetHeld = false) (keeps : Control.reset data = false)
    (changes : Control.run data ≠ s.ctl.run) : controlWrite data s = receiveTogether s.port.length (changeRun s) := by
  simp [controlWrite, free, keeps, changes]

theorem acceptControl_ctl (look : Bool) (s : State) : (acceptControl look s).ctl = { s.ctl with refusedWrite := false } := by
  unfold acceptControl
  dsimp only
  split <;> simp

section
variable {s : State}

theorem changeRun_off (op : s.ctl.op = .off) : changeRun s = startLoading s := by rw [changeRun, op]

theorem changeRun_running (op : s.ctl.op = .running) : changeRun s = stopOrder s := by rw [changeRun, op]

theorem changeRun_stopped (op : s.ctl.op = .stopped) : changeRun s = resumeRunning s := by rw [changeRun, op]

theorem changeRun_refused (op : s.ctl.op = .loading ∨ s.ctl.op = .stopping ∨ s.ctl.op = .faulted) :
    changeRun s = s.setCtl { s.ctl with refusedWrite := true } := by
  rcases op with op | op | op <;> rw [changeRun, op]

theorem startLoading_eq : startLoading s = (s.setCtl { s.ctl with op := .loading, run := true, refusedWrite := false }).setPort
    (s.port ++ [{ kind := .headerRead, addr := s.ctl.areaBase, data := [] }]) := rfl

/-- The look of the resume uses the pending look at once (R174, R21, R23). -/
theorem resumeRunning_eq : resumeRunning s =
    (((s.setCtl { s.ctl with op := .running, run := true, refusedWrite := false }).setEng
      { s.eng with frameTimer := some s.eng.period, frameState := .waiting }).setWk
        { s.wk with state := .fetchLink, pendingLook := false }).setPort
      (s.port ++ [{ kind := .linkRead, addr := s.wk.anchor.linkAddr s.ctl.areaBase, data := [] }]) :=
  RequestChain.enterResting_of_pending rfl

theorem acceptControl_quiet {look : Bool} (h : look = false ∨ s.ctl.op ≠ .running) :
    acceptControl look s = s.setCtl { s.ctl with refusedWrite := false } := by
  refine if_neg ?_
  rintro ⟨asked, op⟩
  exact h.elim (fun quiet => by simp [quiet] at asked) (fun ne => ne op)

end

/-- Settles O6: by whether RUN would change, and then by the operating state or by LOOK. -/
theorem controlWriteTaken : Obligations.ControlWriteTaken := by
  refine ⟨fun s => ⟨controlReads s, statusReads s⟩, fun c data s hc free keeps => ?_⟩
  rw [exec_control s hc]
  refine ⟨_, rfl, fun changes => ?_, fun same => ?_⟩
  · rw [controlWrite_changes free keeps changes]
    refine ⟨fun op => ?_, fun op => ?_, fun op => ?_, fun op => ?_⟩
    · rw [changeRun_off op]
      rfl
    · rw [changeRun_running op]
      simp [stopOrder]
    · rw [changeRun_stopped op, resumeRunning_eq]
      rfl
    · rw [changeRun_refused op]
      exact receiveTogether_one (Nat.le_succ _)
  · rw [RequestChain.controlWrite_accepted free keeps same]
    exact ⟨acceptControl_ctl _ s, acceptControl_quiet⟩

/-- Settles O8: each start issues one access, so its order of receipt is settled. -/
theorem runSetStarts : Obligations.RunSetStarts := by
  intro c data s hc free keeps run was
  have changes : Control.run data ≠ s.ctl.run := by simp [run, was]
  rw [exec_control s hc, controlWrite_changes free keeps changes]
  refine ⟨fun op => ?_, fun op => ?_⟩
  · rw [changeRun_off op, startLoading_eq, receiveTogether_one (by simp)]
  · rw [changeRun_stopped op, resumeRunning_eq, receiveTogether_one (by simp)]
    rfl

/-! ### The stop order (R172) -/

theorem answer_wk (h : Held) (a : Answer) (s : State) : (answer h a s).wk = { s.wk with state := .closingResult h a } := rfl

/-- Of the walker a boundary request touches the state alone. -/
theorem applyBoundary_wk (h : Held) (r : Request) (s : State) :
    (applyBoundary h r s).wk = { s.wk with state := (applyBoundary h r s).wk.state } := by
  cases r with
  | configGroup i g =>
    simp only [applyBoundary, applyConfigGroup]
    split <;> rfl
  | snapshot b x =>
    simp only [applyBoundary, applySnapshot]
    split <;> simp [answer_wk]
  | mark t =>
    simp only [applyBoundary, applyMark]
    split <;> rfl
  | _ => simp [applyBoundary, applyConfigPoint, applyReleasePoint, applySetTiming, applyRecalibrate, applyReseed, answer_wk]

theorem applyWaiting_wk (s : State) : (applyWaiting s).wk = { s.wk with state := (applyWaiting s).wk.state } := by
  unfold applyWaiting
  split
  · exact applyBoundary_wk _ _ s
  · rfl

theorem applyWaiting_of_resting {s : State} (h : s.wk.state = .resting) : applyWaiting s = s := by
  simp [applyWaiting, State.waitingBoundary, WalkerState.unapplied, h]

theorem orderSpotEnd_scanWaits (code : ResultCode) (s : State) : (orderSpotEnd code s).arb.scanWaits = s.arb.scanWaits := by
  unfold orderSpotEnd
  split <;> simp [withdrawSpot]

theorem applyBoundary_scanWaits (h : Held) (r : Request) (s : State) :
    (applyBoundary h r s).arb.scanWaits = s.arb.scanWaits := by
  have ended : ∀ p, (abortSpotOn p s).arb.scanWaits = s.arb.scanWaits := fun p => by
    unfold abortSpotOn
    split <;> simp [orderSpotEnd_scanWaits]
  cases r <;> simp [applyBoundary, applyConfigPoint, applyReleasePoint, ended]

theorem applyWaiting_scanWaits (s : State) : (applyWaiting s).arb.scanWaits = s.arb.scanWaits := by
  unfold applyWaiting
  split
  · exact applyBoundary_scanWaits _ _ s
  · rfl

theorem journalFrameOver_wkState (s : State) :
    (journalFrameOver s).wk = { s.wk with state := (journalFrameOver s).wk.state } := by
  rw [journalFrameOver_wk]
  (repeat' split) <;> rfl

theorem cutEnd_wk (s : State) : (cutEnd s).wk = { s.wk with state := (cutEnd s).wk.state } := by
  have told : (leaveCut s).wk = { s.wk with state := (leaveCut s).wk.state } := journalFrameOver_wkState s
  rw [cutEnd, applyWaiting_wk, told]

theorem cutEnd_of_resting {s : State} (h : s.wk.state = .resting) : (cutEnd s).wk.state = .resting := by
  have told : (leaveCut s).wk.state = .resting := by
    show (journalFrameOver s).wk.state = .resting
    rw [journalFrameOver_wk, h]
    exact h
  rw [cutEnd, applyWaiting_of_resting told, told]

/-- The engine after a cut frame: PARKED, and every expiry counted (R123, R117). -/
theorem cutEnd_eng (s : State) : (cutEnd s).eng.frameState = .parked ∧ (cutEnd s).eng.startPending = false ∧
    (cutEnd s).eng.merged = 0 ∧ (cutEnd s).eng.gap = s.eng.gap + s.eng.merged + (if s.eng.startPending then 1 else 0) ∧
    (cutEnd s).eng.frameTimer = s.eng.frameTimer ∧ (cutEnd s).eng.frameNumber = s.eng.frameNumber := by
  simp [cutEnd, leaveCut]

/-- The journal unit is told that a cut frame is over (R123, R134). -/
theorem cutEnd_frameOpen (s : State) : (cutEnd s).jrn.frameOpen = false := by
  rw [cutEnd, FrameTiming.applyWaiting_jrn]
  exact (FrameTiming.frameOver_leaves (journalFrameOver_jrn s)).1

theorem cutEnd_scanWaits (s : State) : (cutEnd s).arb.scanWaits = s.arb.scanWaits := by
  rw [cutEnd, applyWaiting_scanWaits]
  simp

theorem stopScan_cuts {s : State} (scanning : s.eng.frameState = .scanning) (ungranted : ∀ v, s.arb.grant ≠ .scan v) :
    stopScan s = cutEnd (withdrawScan (s.setEng { s.eng with frameTimer := none })) := by
  unfold stopScan
  rw [scanning]
  cases grant : s.arb.grant with
  | scan v => exact absurd grant (ungranted v)
  | free => rfl
  | spot v => rfl

/-- What the scan engine's part of the stop order leaves alike in every state: the timer stopped, the frame number, and the
walker's anchor and bad-link flag; a walker in RESTING stays there. -/
theorem stopScan_common (s : State) : (stopScan s).eng.frameTimer = none ∧ (stopScan s).eng.frameNumber = s.eng.frameNumber ∧
    (stopScan s).wk.anchor = s.wk.anchor ∧ (stopScan s).wk.badLink = s.wk.badLink ∧
    (s.wk.state = .resting → (stopScan s).wk.state = .resting) := by
  have cut {u : State} (eng : u.eng = { s.eng with frameTimer := none }) (wk : u.wk = s.wk) :
      (cutEnd u).eng.frameTimer = none ∧ (cutEnd u).eng.frameNumber = s.eng.frameNumber ∧
      (cutEnd u).wk.anchor = s.wk.anchor ∧ (cutEnd u).wk.badLink = s.wk.badLink ∧
      (s.wk.state = .resting → (cutEnd u).wk.state = .resting) := by
    obtain ⟨-, -, -, -, timer, number⟩ := cutEnd_eng u
    rw [timer, number, eng, cutEnd_wk, wk]
    exact ⟨rfl, rfl, rfl, rfl, fun h => cutEnd_of_resting (by rw [wk, h])⟩
  unfold stopScan
  dsimp only
  split
  · exact ⟨rfl, rfl, rfl, rfl, id⟩
  · split
    · exact ⟨rfl, rfl, rfl, rfl, id⟩
    · exact cut rfl rfl
    · exact cut rfl rfl
  · exact ⟨rfl, rfl, rfl, rfl, id⟩
  · exact ⟨rfl, rfl, rfl, rfl, id⟩

/-- With no scan conversion granted the frame ends as a cut frame at once (R123, R48). -/
theorem stopScan_ungranted {s : State} (scanning : s.eng.frameState = .scanning) (ungranted : ∀ v, s.arb.grant ≠ .scan v) :
    (stopScan s).eng.frameState = .parked ∧ (stopScan s).arb.scanWaits = false ∧ (stopScan s).jrn.frameOpen = false ∧
    (stopScan s).eng.startPending = false ∧ (stopScan s).eng.merged = 0 ∧
    (stopScan s).eng.gap = s.eng.gap + s.eng.merged + (if s.eng.startPending then 1 else 0) := by
  rw [stopScan_cuts scanning ungranted]
  obtain ⟨parked, start, merged, gap, -⟩ := cutEnd_eng (withdrawScan (s.setEng { s.eng with frameTimer := none }))
  exact ⟨parked, cutEnd_scanWaits _, cutEnd_frameOpen _, start, merged, gap⟩

/-- The walker's part of the stop order: the pending look cleared, anchor and bad-link flag kept, RESTING left (R34). -/
theorem stopWalker_wk (s : State) : (stopWalker s).wk.pendingLook = false ∧ (stopWalker s).wk.anchor = s.wk.anchor ∧
    (stopWalker s).wk.badLink = s.wk.badLink ∧ (s.wk.state = .resting → (stopWalker s).wk.state = .idle) := by
  unfold stopWalker
  dsimp only
  split
  · exact ⟨rfl, rfl, rfl, fun _ => rfl⟩
  · rename_i h
    exact ⟨rfl, rfl, rfl, fun e => by simp [h] at e⟩
  · rename_i h
    split <;> exact ⟨rfl, rfl, rfl, fun e => by simp [h] at e⟩
  · rename_i other _ _
    exact ⟨rfl, rfl, rfl, fun e => absurd e other⟩

/-- The state in which the stop order reaches the units (R172). -/
def stopping (s : State) : State := s.setCtl { s.ctl with op := .stopping, run := false, refusedWrite := false }

theorem stopOrder_eq (s : State) : stopOrder s = stopWalker (orderSpotEnd .aborted (stopScan (stopping s))) := rfl

/-- Settles O9: the three units' parts one after the other, and what each leaves to the end of the event. -/
theorem stopOrderGiven : Obligations.StopOrderGiven := by
  intro c data s hc free keeps run was op _
  rw [exec_control s hc, SensePoints.controlWrite_stops free keeps run was op]
  obtain ⟨timer, number, anchor, link, rests⟩ := stopScan_common (stopping s)
  obtain ⟨parks, cuts, -⟩ := stopScan_stops (stopping s)
  obtain ⟨look, anchor', link', idles⟩ := stopWalker_wk (orderSpotEnd .aborted (stopScan (stopping s)))
  simp only [orderSpotEnd_keeps] at anchor' link' idles
  refine ⟨_, rfl, ?_⟩
  simp only [receiveTogether_keeps, stopOrder_keeps]
  simp only [stopOrder_eq, stopWalker_keeps, orderSpotEnd_keeps, orderSpotEnd_keepsEngine, orderSpotEnd_scanWaits]
  refine ⟨timer, look, anchor'.trans anchor, link'.trans link, trivial, trivial, trivial, number, fun h => idles (rests h),
    fun waiting => ?_, fun scanning granted => ?_, stopScan_ungranted (s := stopping s),
    _, _, _, stopScan_stops _, orderSpotEnd_stops _, stopWalker_stops _, receiveTogether_same _ _⟩
  · rw [parks waiting]
    exact ⟨rfl, rfl, rfl⟩
  · rw [cuts scanning granted]
    exact ⟨rfl, rfl⟩

/-! ### The classes of the attention unit (R181, R183) -/

@[simp] theorem cls_setCls_same (a : Attention) (k : AttnClass) (x : ClassAttn) : (a.setCls k x).cls k = x := by
  cases k <;> rfl

theorem cls_setCls_other (a : Attention) {j k : AttnClass} (h : j ≠ k) (x : ClassAttn) : (a.setCls k x).cls j = a.cls j := by
  cases k <;> cases j <;> trivial

/-- What holds of every class holds of the four (R181). -/
theorem forall_class {P : AttnClass → Prop} : (∀ k, P k) ↔ P .fault ∧ P .trip ∧ P .journal ∧ P .chain :=
  ⟨fun h => ⟨h _, h _, h _, h _⟩, fun ⟨hf, ht, hj, hc⟩ k => by cases k <;> assumption⟩

/-- A class is blocked by one in service that is of its own or a higher priority (R183). -/
theorem not_blocked_iff (a : Attention) (k : AttnClass) :
    a.blocked k = false ↔ ∀ j : AttnClass, (a.cls j).inService = true → k.code.toNat < j.code.toNat := by
  rw [forall_class]
  cases k <;> simp [Attention.blocked, Attention.cls, AttnClass.code, and_assoc]

theorem eligible_iff (a : Attention) (k : AttnClass) : a.eligible k = true ↔ (a.cls k).pending = true ∧ (a.cls k).enabled = true ∧
    ∀ j : AttnClass, (a.cls j).inService = true → k.code.toNat < j.code.toNat := by
  rw [← not_blocked_iff]
  simp [Attention.eligible, and_assoc]

theorem attn_iff (a : Attention) : a.attn = true ↔ ∃ k : AttnClass, a.eligible k = true := by
  rw [Attention.attn, Attention.highest, List.find?_isSome]
  exact ⟨fun ⟨k, _, h⟩ => ⟨k, h⟩, fun ⟨k, h⟩ => ⟨k, by cases k <;> decide, h⟩⟩

/-! ### ATTN_ENABLE and ATTN (R183) -/

theorem enable_cls (a : Attention) (data : Word) (k : AttnClass) :
    ((a.enable data).cls k).pending = (a.cls k).pending ∧ ((a.enable data).cls k).causes = (a.cls k).causes ∧
      ((a.enable data).cls k).inService = (a.cls k).inService := by
  cases k <;> exact ⟨rfl, rfl, rfl⟩

/-- Four flags as the low bits of a word. -/
theorem lowBits_eq (data : Word) :
    (BitVec.ofBool (data.getLsbD 3) ++ BitVec.ofBool (data.getLsbD 2) ++ BitVec.ofBool (data.getLsbD 1) ++
      BitVec.ofBool (data.getLsbD 0)).setWidth 32 = data &&& 0xF#32 := by
  refine BitVec.eq_of_getLsbD_eq fun i hi => ?_
  rcases i with _ | _ | _ | _ | i
  case succ.succ.succ.succ =>
    have high : (0xF#32).getLsbD (i + 4) = false := by
      have small : 15 < 2 ^ (i + 4) := Nat.lt_of_lt_of_le (by decide) (Nat.pow_le_pow_right (by decide) (Nat.le_add_left 4 i))
      simp [BitVec.getLsbD_ofNat, Nat.testBit_lt_two_pow small]
    rw [BitVec.getLsbD_and, high]
    simp
  all_goals
    simp only [BitVec.getLsbD_setWidth, BitVec.getLsbD_append, BitVec.getLsbD_and]
    simp

/-- Settles O11: the enables are stored and read back bit by bit, and ATTN asks for an eligible class. -/
theorem attnEnableAndLine : Obligations.AttnEnableAndLine := by
  refine ⟨fun data s free => ⟨s.atn.enable data, congrArg Host.Outcome.next (if_neg (by simp [free])), rfl, enable_cls s.atn data,
    rfl, rfl, rfl, rfl, congrArg some (lowBits_eq data)⟩, fun a => ?_⟩
  rw [attn_iff]
  exact exists_congr (eligible_iff a)

/-! ### ATTENTION (R184) -/

/-- The fields of an attention vector, where they stand (13, Registers). -/
theorem vector_fields {code causes : BitVec 3} {index : Byte} {w : Word}
    (h : w = ofBytes (code.setWidth 8) (causes.setWidth 8) index 0) :
    w.extractLsb' 0 3 = code ∧ w.extractLsb' 8 3 = causes ∧ w.extractLsb' 16 8 = index ∧ w.extractLsb' 3 5 = 0 ∧
    w.extractLsb' 11 5 = 0 ∧ w.extractLsb' 24 8 = 0 := by
  have wide : ∀ x : BitVec 3, x.setWidth 8 = 0#5 ++ x := by decide
  obtain ⟨-, -, third, fourth⟩ := ofBytes_extract (code.setWidth 8) (causes.setWidth 8) index 0
  subst h
  refine ⟨?_, ?_, third, ?_, ?_, fourth⟩ <;> rw [ofBytes, wide, wide]
  · rw [extract_low _ _ (by decide), extract_low_whole]
  · rw [extract_high (j := 0) _ _ (by decide), extract_low _ _ (by decide), extract_low_whole]
  · rw [extract_low _ _ (by decide), extract_high_whole]
    rfl
  · rw [extract_high (j := 3) _ _ (by decide), extract_low _ _ (by decide), extract_high_whole]
    rfl

theorem attentionRead_some {s : State} {k : AttnClass} (h : s.atn.highest = some k) :
    attentionRead s = (s.setReadData (s.atn.vector k)).setAtn (s.atn.acknowledge k) := by
  rw [attentionRead, h]

theorem attentionRead_none {s : State} (h : s.atn.highest = none) : attentionRead s = s.setReadData 0x00FF0000#32 := by
  rw [attentionRead, h]
  rfl

theorem acknowledge_cls_same (a : Attention) (k : AttnClass) : (a.acknowledge k).cls k =
    { pending := false, causes := 0, inService := true, enabled := (a.cls k).enabled } := by
  cases k <;> rfl

theorem acknowledge_cls_other (a : Attention) {j k : AttnClass} (h : j ≠ k) : (a.acknowledge k).cls j = a.cls j := by
  rw [← cls_setCls_other a h { a.cls k with pending := false, causes := 0, inService := true }]
  cases j <;> rfl

/-- Settles O12: the read finds the highest eligible class, or none. -/
theorem attentionReadAcknowledges : Obligations.AttentionReadAcknowledges := by
  refine ⟨⟨rfl, rfl, rfl, rfl⟩, fun s => ⟨fun k eligible highest => ?_, fun none => ?_⟩⟩
  · obtain ⟨code, causes, index, low, mid, high⟩ := vector_fields (w := s.atn.vector k) rfl
    have read := attentionRead_some (Attention.highest_eq eligible highest)
    refine ⟨s.atn.vector k, s.atn.acknowledge k, congrArg Host.Outcome.next read, code, causes, index.trans ?_, low, mid, high,
      acknowledge_cls_same _ _, fun j hj => acknowledge_cls_other _ hj, rfl⟩
    cases k <;> cases s.atn.tripIndex <;> rfl
  · exact congrArg Host.Outcome.next (attentionRead_none (Attention.highest_none none))

/-! ### SERVICE (R185) -/

/-- A SERVICE write ends the highest class in service (R185). -/
theorem serviceWrite_some {s : State} {k : AttnClass} (free : s.ctl.resetHeld = false) (h : s.atn.serving = some k) :
    serviceWrite s = s.setAtn (s.atn.setCls k { s.atn.cls k with inService := false }) := by
  rw [serviceWrite, if_neg (by simp [free]), h]
  rfl

theorem serviceWrite_none {s : State} (free : s.ctl.resetHeld = false) (h : ∀ k : AttnClass, (s.atn.cls k).inService = false) :
    serviceWrite s = s := by
  have none : s.atn.serving = none := by simp [Attention.serving, AttnClass.all, h]
  rw [serviceWrite, if_neg (by simp [free]), none]

/-- The class that a read acknowledges is above every class in service, so it is the next to leave service (R183, R185). -/
theorem serving_acknowledge {a : Attention} {k : AttnClass} (eligible : a.eligible k = true) :
    (a.acknowledge k).serving = some k := by
  obtain ⟨-, -, above⟩ := (eligible_iff a k).1 eligible
  refine Attention.serving_eq (by rw [acknowledge_cls_same]) fun j hj => ?_
  rw [acknowledge_cls_other a (fun e => Nat.lt_irrefl _ (e ▸ hj))]
  exact Bool.eq_false_iff.2 fun serving => Nat.lt_asymm hj (above j serving)

/-- Settles O13: the highest class in service is found, and the one last acknowledged is it. -/
theorem serviceEndsHighest : Obligations.ServiceEndsHighest := by
  intro data s free
  refine ⟨fun k serving highest => congrArg Host.Outcome.next (serviceWrite_some free (Attention.serving_eq serving highest)),
    fun none => congrArg Host.Outcome.next (serviceWrite_none free none), rfl, fun k t u eligible highest ht hu => ?_⟩
  have read : attentionRead s = t := Host.Outcome.next.inj ht
  rw [attentionRead_some (Attention.highest_eq eligible highest)] at read
  subst read
  have written := Host.Outcome.next.inj hu
  rw [serviceWrite_some (by exact free) (serving_acknowledge eligible)] at written
  subst written
  refine ⟨by simp [acknowledge_cls_same], by simp, fun j hj => ?_⟩
  simp [cls_setCls_other _ hj, acknowledge_cls_other _ hj]

/-! ### Causes (R181, R182) -/

theorem raise_cls_same (c : Cause) (s : State) : (raise c s).atn.cls c.cls =
    { s.atn.cls c.cls with pending := true, causes := (s.atn.cls c.cls).causes ||| c.bit } := by
  cases c <;> rfl

theorem raise_cls_other {c : Cause} {j : AttnClass} (h : j ≠ c.cls) (s : State) : (raise c s).atn.cls j = s.atn.cls j := by
  rw [← cls_setCls_other s.atn h { s.atn.cls c.cls with pending := true, causes := (s.atn.cls c.cls).causes ||| c.bit }]
  cases j <;> rfl

theorem raise_tripIndex (c : Cause) (s : State) : (raise c s).atn.tripIndex = nextTripIndex s.atn.tripIndex c := rfl

/-- Causes of the other classes leave TRIP's index (R182). -/
theorem nextTripIndex_other {c : Cause} (h : c.cls ≠ .trip) (old : Option TripIndex) : nextTripIndex old c = old := by
  cases c with
  | engaged p => exact absurd rfl h
  | pointFault p => exact absurd rfl h
  | _ => rfl

/-- Settles O14: R182's table is `nextTripIndex`, and an acknowledgement and both resets return the index to none. -/
theorem tripIndexRule : Obligations.TripIndexRule := by
  refine ⟨⟨rfl, rfl, rfl, rfl⟩,
    ⟨rfl, rfl, rfl, rfl, fun _ => ⟨rfl, rfl, rfl, rfl⟩, rfl, rfl, rfl, rfl, rfl, rfl, rfl, rfl, rfl, rfl⟩,
    fun c s => ⟨rfl, raise_cls_same c s, fun j hj => raise_cls_other hj s⟩, fun s p q => ?_⟩
  simp only [raise_tripIndex]
  refine ⟨fun none => ?_, fun fault => ?_, fun engaged => ?_, fun c hc => nextTripIndex_other hc _, fun t highest ht => ?_,
    fun low t ht => ?_, fun data t free reset ht => ?_⟩
  · rw [none]
    exact ⟨rfl, rfl⟩
  · rw [fault]
    exact ⟨rfl, rfl⟩
  · rw [engaged]
    exact ⟨rfl, rfl⟩
  · rw [← Host.Outcome.next.inj ht, attentionRead_some highest]
    rfl
  · rw [← Host.Outcome.next.inj ht]
    rfl
  · rw [← Host.Outcome.next.inj ht, OutputLines.controlWrite_resets free reset]
    rfl

/-! ### FAULT_ADDR and the fault kind (R180) -/

/-- Neither the fault kind nor FAULT_ADDR changes, and FAULTED is neither entered nor left. -/
def FaultKept (s t : State) : Prop :=
  t.ctl.faultKind = s.ctl.faultKind ∧ t.ctl.faultAddr = s.ctl.faultAddr ∧ (t.ctl.op = .faulted ↔ s.ctl.op = .faulted)

/-- A reset has cleared the fault kind and FAULT_ADDR. -/
def FaultCleared (t : State) : Prop := t.ctl.op = .off ∧ t.ctl.faultAddr = 0 ∧ t.ctl.faultKind = .none

/-- The access on the interconnect has failed. -/
def FaultTaken (s t : State) : Prop :=
  t.ctl.op = .faulted ∧ t.ctl.faultKind ≠ .none ∧ ∃ a rest, s.port = a :: rest ∧ t.ctl.faultAddr = a.addr

theorem faultKept_of_ctl {s t : State} (h : t.ctl = s.ctl) : FaultKept s t := by
  rw [FaultKept, h]
  exact ⟨rfl, rfl, .rfl⟩

theorem memoryFault_ctl {s : State} {a : Access} {rest : List Access} (h : s.port = a :: rest) (kind : FaultKind)
    (cause : Cause) :
    (memoryFault kind cause s).ctl = { s.ctl with op := .faulted, faultKind := kind, faultAddr := a.addr } := by
  simp [memoryFault, h, faultUnits]

theorem racedFault_faultFields {kind : FaultKind} (named : kind ≠ .none) (cause : Cause) (race : Option FaultRace) (s : State) :
    FaultKept s (racedFault kind cause race s) ∨ FaultTaken s (racedFault kind cause race s) := by
  unfold racedFault
  split
  · exact .inl (faultKept_of_ctl rfl)
  · rename_i hp
    rw [FaultTaken, memoryFault_ctl hp]
    exact .inr ⟨rfl, named, _, _, hp, rfl⟩
  · rename_i hp
    rw [FaultTaken, memoryFault_ctl (s := beforeFault _ s) hp]
    exact .inr ⟨rfl, named, _, _, hp, rfl⟩

theorem changeRun_faultKept (s : State) : FaultKept s (changeRun s) := by
  unfold changeRun
  split <;> rename_i op
  · simp [FaultKept, op, startLoading]
  · simp [FaultKept, op, stopOrder]
  · simp [FaultKept, op, resumeRunning]
  all_goals exact ⟨rfl, rfl, .rfl⟩

theorem controlWrite_faultFields (data : Word) (s : State) :
    FaultKept s (controlWrite data s) ∨ FaultCleared (controlWrite data s) := by
  unfold controlWrite
  split
  · exact .inl (faultKept_of_ctl rfl)
  split
  · exact .inr ⟨rfl, rfl, rfl⟩
  split
  · rw [FaultKept, acceptControl_ctl]
    exact .inl ⟨rfl, rfl, .rfl⟩
  · exact .inl (changeRun_faultKept s)

theorem headerRead_faultKept (half : Vector Word 8) (s : State) : FaultKept s (headerRead half s) := by
  unfold headerRead
  split
  · rename_i loads
    obtain ⟨-, op⟩ := loads
    split <;> simp [FaultKept, op, enterRunning, refuseHeader]
  · exact faultKept_of_ctl rfl

theorem enterStopped_faultKept (s : State) : FaultKept s (enterStopped s) := by
  unfold enterStopped
  split
  · rename_i settled
    simp [FaultKept, settled.1]
  · exact faultKept_of_ctl rfl

theorem areaBaseWrite_faultKept (data : Word) (s : State) : FaultKept s (areaBaseWrite data s) := by
  unfold areaBaseWrite
  (repeat' split) <;> exact ⟨rfl, rfl, .rfl⟩

theorem workingStep_ctl {f : Held → Request → Option State} {s : State} (done : ∀ h r t, f h r = some t → t.ctl = s.ctl) :
    (workingStep f s).ctl = s.ctl :=
  workingStep_ind (P := fun x => x.ctl = s.ctl) rfl (fun _ _ ht => ht) fun h r t _ e => done h r t e

/-- A boundary kind's command carries out the request that the walker holds, and nothing else. -/
theorem boundaryStep_ctl {f : Held → Request → Option State} {s : State}
    (done : ∀ h r t, f h r = some t → applyBoundary h r s = t) :
    (boundaryStep f s).ctl = s.ctl :=
  boundaryStep_ind (P := fun x => x.ctl = s.ctl) rfl (fun _ _ ht => ht) (fun _ => rfl) fun h r t _ _ e => by
    simp [← done h r t e]

/-- What a command can make of the fault fields (R180). -/
theorem exec_faultFields (c : Instr) (s : State) :
    ∃ t, exec c s = .next t ∧ (FaultKept s t ∨ FaultCleared t ∨ FaultTaken s t) := by
  cases c
  case hardwareReset low => exact ⟨_, rfl, .inr (.inl ⟨rfl, rfl, rfl⟩)⟩
  case softwareReset data | runSet data | runClear data | resume data | look data | acceptedControlWrite data =>
    exact ⟨_, rfl, (controlWrite_faultFields data s).imp_right .inl⟩
  case errorResponse race | responseLimitExpiry race =>
    exact ⟨_, rfl, (racedFault_faultFields (by decide) _ race s).imp_right .inr⟩
  case areaBaseWrite data => exact ⟨_, rfl, .inl (areaBaseWrite_faultKept data s)⟩
  case headerReadComplete half => exact ⟨_, rfl, .inl (headerRead_faultKept half s)⟩
  case enterStopped => exact ⟨_, rfl, .inl (enterStopped_faultKept s)⟩
  case resetnRise => exact ⟨_, rfl, .inl ⟨rfl, rfl, .rfl⟩⟩
  case ignoredRegisterWrite | lateResponse => exact ⟨_, rfl, .inl (faultKept_of_ctl rfl)⟩
  case attnEnableWrite | attentionRead | serviceWrite | linkReadComplete | blockReadComplete | takenWriteComplete |
      resultWriteComplete | closedWriteComplete | mirrorWriteComplete | spotWriteComplete | snapshotRecordWriteComplete |
      journalWriteComplete =>
    refine ⟨_, rfl, .inl (faultKept_of_ctl ?_)⟩
    simp only [attnEnableWrite, attentionRead, serviceWrite, linkRead, blockRead, takenWritten, resultWritten, closedWritten,
      mirrorWritten, spotWritten, snapshotWritten, journalWritten]
    (repeat' split) <;> simp
  case configOutput | setOutputs | givePages | reclaimPages | flushJournal | spot =>
    refine ⟨_, rfl, .inl (faultKept_of_ctl (workingStep_ctl fun h r t e => ?_))⟩
    split at e <;> cases e
    simp
  case configPoint | releasePoint | configGroup | setTiming | recalibrate | reseed | snapshot | mark =>
    refine ⟨_, rfl, .inl (faultKept_of_ctl (boundaryStep_ctl fun h r t e => ?_))⟩
    split at e <;> cases e
    rfl
  case frameTimerExpiry ends | scanConversionComplete count ends | spotSubconversionComplete count | lingerExpiry =>
    exact ⟨_, rfl, .inl (faultKept_of_ctl (by simp))⟩

/-- In FAULTED the port holds no access, so none can fail there (R12, R13). -/
theorem noAccess_of_faulted {s : State} (mode : s.ModeCoherent) (faulted : s.ctl.op = .faulted) : s.port = [] := by
  rw [State.ModeCoherent, faulted] at mode
  obtain ⟨-, -, -, -, -, port, -⟩ := mode
  exact port

/-- Settles O16: a command keeps the fault fields, clears them, or takes them from the access that fails, of which FAULTED has
none. -/
theorem faultAddrRule : Obligations.FaultAddrRule := by
  intro c s t coherent mode e
  obtain ⟨u, hu, fields⟩ := exec_faultFields c s
  rw [hu] at e
  cases e
  obtain ⟨-, -, -, kind, addr⟩ := coherent
  have reads : ∀ x : State, x.ctl.faultAddr = 0 → x.readRegister 0x1C = some 0#32 := fun x h => congrArg some h
  rcases fields with ⟨sameKind, sameAddr, same⟩ | ⟨off, cleared, none⟩ | ⟨faulted, named, a, rest, hp, taken⟩
  · simp only [sameKind, sameAddr, same, ne_eq]
    have none : s.ctl.op ≠ .faulted → s.ctl.faultKind = .none := fun ne => Decidable.byContradiction fun h => ne (kind.2 h)
    exact ⟨fun ne f => absurd f ne, fun _ _ => ⟨trivial, trivial⟩, fun f ne => absurd f ne,
      fun ne => ⟨reads t (sameAddr.trans (addr ne)), none ne⟩, kind.1⟩
  · simp [off, none, cleared, reads]
  · refine ⟨fun _ _ => ⟨a, rest, hp, taken⟩, fun f _ => ?_, fun _ ne => absurd faulted ne, fun ne => absurd faulted ne,
      fun _ => named⟩
    cases (noAccess_of_faulted mode f).symm.trans hp

/-! ### The entry to STOPPED (R173) -/

theorem settled_iff (s : State) : s.settled = true ↔ s.wk.state = .idle ∧ (∀ a ∈ s.port, a.kind.agent ≠ .walker) ∧
    s.eng.frameState = .parked ∧ s.arb.Idle ∧ s.spt.state = .empty ∧ s.spt.writes = [] ∧ s.spt.snapshot = none ∧
    s.jrn.writes = [] ∧ s.mir.writing = none := by
  simp [State.settled, Arbiter.Idle, and_assoc]

theorem enterStopped_settled {s : State} (op : s.ctl.op = .stopping) (settled : s.settled = true) :
    enterStopped s = issueImage (captureImage s) true (s.setCtl { s.ctl with op := .stopped }) := by
  obtain ⟨-, -, -, -, -, -, -, -, writing⟩ := (settled_iff s).1 settled
  rw [enterStopped, if_pos ⟨op, settled⟩, capture_issues (by exact writing)]
  rfl

/-- Settles O52: by whether every unit has settled in STOPPING. -/
theorem enterStoppedCaptures : Obligations.EnterStoppedCaptures := by
  refine ⟨imageLayout, fun s => ⟨fun op wk port eng arb spt writes snapshot jrn mir i hi => ?_, fun unsettled => ?_⟩⟩
  · subst hi
    exact congrArg Host.Outcome.next
      (enterStopped_settled op ((settled_iff s).2 ⟨wk, port, eng, arb, spt, writes, snapshot, jrn, mir⟩))
  · refine congrArg Host.Outcome.next (if_neg ?_)
    rw [settled_iff]
    rintro ⟨op, wk, port, eng, arb, spt, writes, snapshot, jrn, mir⟩
    rcases unsettled with h | h | ⟨a, ha, h⟩ | h | h | h | h | h | h | h
    · exact h op
    · exact h wk
    · exact port a ha h
    · exact h eng
    · exact h arb
    · exact h spt
    · exact h writes
    · exact h snapshot
    · exact h jrn
    · exact h mir

/-! ### The state after reset (R176) -/

/-- Settles O60: the tables by their own lemmas, the rest by the fields of the reset state. -/
theorem invariantsHoldAtReset : Obligations.InvariantsHoldAtReset := by
  have view := OutputLines.reset_viewFollows
  refine ⟨List.Pairwise.nil, ?_, ⟨⟨rfl, rfl, rfl, rfl, rfl, rfl, rfl⟩, rfl⟩, ?_, ?_, SensePoints.pointsOk_reset,
    PointGroups.groupsOk_resetUnits State.reset, view.2 (by decide), view, ⟨rfl, rfl, rfl, rfl, rfl⟩⟩
  · simp [ControlUnit.Coherent, State.reset]
  · exact ⟨rfl, fun _ _ => ⟨rfl, rfl⟩⟩
  · exact ⟨Nat.zero_le _, List.nodup_nil, nofun⟩

end Sys2Proof.Machine.OperatingStates
end

section
/-! SUPPORT. 95_what_each_step_holds.md, proved: what a step takes from the queue, and that every command completes, leaves the
queue alone and, but for an ATTENTION read, the read data. -/

namespace Sys2Proof.Machine.Steps

/-! ### The queue (log entry 1) -/

theorem step_front {s : State} {c : Instr} {rest : List Instr} (front : s.pending = c :: rest) :
    step s = exec c (s.setPending rest) := by
  simp [step, front]

theorem step_idle {s : State} (empty : s.pending = []) : step s = .next s := by
  simp [step, empty]

/-- Settles O1: by whether the queue is empty. -/
theorem stepTakesFrontCommand : Obligations.StepTakesFrontCommand :=
  ⟨fun c rest s => step_front (s := s.setPending (c :: rest)) rfl, fun _ => step_idle⟩

/-! ### The model's own fields: the queue and the read data (log entries 1 and 6) -/

/-- The queue and the read data stand as they were. -/
def OwnFieldsKept (s t : State) : Prop := t.pending = s.pending ∧ t.readData = s.readData

theorem OwnFieldsKept.refl (s : State) : OwnFieldsKept s s := ⟨rfl, rfl⟩

theorem OwnFieldsKept.trans {s t u : State} (first : OwnFieldsKept s t) (second : OwnFieldsKept t u) : OwnFieldsKept s u :=
  ⟨second.1.trans first.1, second.2.trans first.2⟩

/-! ### The register port: resets, writes and the ATTENTION read (R176, R178, R1, R183 to R185) -/

theorem ownFieldsKept_controlWrite (data : Word) (s : State) : OwnFieldsKept s (controlWrite data s) := by
  unfold controlWrite
  (repeat' split)
  · exact .refl s
  · exact ⟨rfl, rfl⟩
  · simp [OwnFieldsKept]
  · simp [OwnFieldsKept]

theorem ownFieldsKept_areaBaseWrite (data : Word) (s : State) : OwnFieldsKept s (areaBaseWrite data s) := by
  unfold areaBaseWrite
  (repeat' split) <;> exact ⟨rfl, rfl⟩

theorem ownFieldsKept_attnEnableWrite (data : Word) (s : State) : OwnFieldsKept s (attnEnableWrite data s) := by
  unfold attnEnableWrite
  split <;> exact ⟨rfl, rfl⟩

theorem ownFieldsKept_serviceWrite (s : State) : OwnFieldsKept s (serviceWrite s) := by
  unfold serviceWrite
  (repeat' split) <;> exact ⟨rfl, rfl⟩

/-- The read data is new, and the queue stands. -/
theorem attentionRead_pending (s : State) : (attentionRead s).pending = s.pending := by
  unfold attentionRead
  split <;> rfl

/-! ### The scan engine's events and memory faults (R42, R112, R12, R166) -/

theorem ownFieldsKept_frameEvent (ends : List EndExpiries) (s : State) : OwnFieldsKept s (scanEvent (frameExpiry ends) s) := by
  simp [OwnFieldsKept]

theorem ownFieldsKept_conversionEvent (count : Half) (ends : List EndExpiries) (s : State) :
    OwnFieldsKept s (scanEvent (scanConversion count ends) s) := by
  simp [OwnFieldsKept]

theorem ownFieldsKept_carryOut (e : ScanEvent) (s : State) : OwnFieldsKept s (carryOut e s) := by
  cases e with
  | scanConversion count ends => exact ownFieldsKept_conversionEvent count ends s
  | frameExpiry ends => exact ownFieldsKept_frameEvent ends s
  | boundary =>
    rw [carryOut]
    split <;> simp [OwnFieldsKept]
  | stopOrder =>
    rw [carryOut]
    split <;> simp [OwnFieldsKept]

theorem ownFieldsKept_memoryFault (kind : FaultKind) (cause : Cause) (s : State) :
    OwnFieldsKept s (memoryFault kind cause s) := by
  unfold memoryFault
  split
  · exact .refl s
  · simp [OwnFieldsKept, faultUnits]

/-- The event comes first, then the fault. -/
theorem ownFieldsKept_racedFault (kind : FaultKind) (cause : Cause) (race : Option FaultRace) (s : State) :
    OwnFieldsKept s (racedFault kind cause race s) := by
  unfold racedFault
  split
  · exact .refl s
  · exact ownFieldsKept_memoryFault kind cause s
  · rename_i r _
    have event : OwnFieldsKept s (beforeFault r s) :=
      ownFieldsKept_carryOut r.event (s.setOut { s.out with entryAfter := some r.taken })
    exact event.trans (ownFieldsKept_memoryFault kind cause _)

/-! ### The accesses that complete (R2, R24 to R26, R18, R152, R156, R133, R5) -/

theorem ownFieldsKept_headerRead (half : Vector Word 8) (s : State) : OwnFieldsKept s (headerRead half s) := by
  unfold headerRead
  (repeat' split) <;> simp [OwnFieldsKept]

theorem ownFieldsKept_linkRead (link : Word) (s : State) : OwnFieldsKept s (linkRead link s) := by
  unfold linkRead
  (repeat' split) <;> simp [OwnFieldsKept]

theorem ownFieldsKept_blockRead (block : Vector Word 16) (s : State) : OwnFieldsKept s (blockRead block s) := by
  unfold blockRead
  (repeat' split) <;> simp [OwnFieldsKept]

theorem ownFieldsKept_takenWritten (s : State) : OwnFieldsKept s (takenWritten s) := by
  unfold takenWritten
  (repeat' split) <;> simp [OwnFieldsKept]

theorem ownFieldsKept_resultWritten (s : State) : OwnFieldsKept s (resultWritten s) := by
  unfold resultWritten
  (repeat' split) <;> simp [OwnFieldsKept]

theorem ownFieldsKept_closedWritten (s : State) : OwnFieldsKept s (closedWritten s) := by
  unfold closedWritten
  (repeat' split) <;> simp [OwnFieldsKept]

theorem ownFieldsKept_spotWritten (s : State) : OwnFieldsKept s (spotWritten s) := by
  unfold spotWritten
  dsimp only
  (repeat' split) <;> simp [OwnFieldsKept]

theorem ownFieldsKept_snapshotWritten (s : State) : OwnFieldsKept s (snapshotWritten s) := by
  unfold snapshotWritten
  dsimp only
  (repeat' split) <;> simp [OwnFieldsKept]

theorem ownFieldsKept_journalWritten (s : State) : OwnFieldsKept s (journalWritten s) := by
  unfold journalWritten
  dsimp only
  (repeat' split) <;> simp [OwnFieldsKept]

theorem ownFieldsKept_mirrorWritten (s : State) : OwnFieldsKept s (mirrorWritten s) := by
  unfold mirrorWritten
  split <;> simp [OwnFieldsKept]

/-! ### The requests that their units carry out (R30 to R32) -/

theorem ownFieldsKept_workingStep {f : Held → Request → Option State} {s : State}
    (done : ∀ h r t, f h r = some t → OwnFieldsKept s t) : OwnFieldsKept s (workingStep f s) :=
  workingStep_ind (.refl s) (fun _ _ kept => kept) fun h r t _ e => done h r t e

theorem ownFieldsKept_applyBoundary (h : Held) (r : Request) (s : State) : OwnFieldsKept s (applyBoundary h r s) := by
  simp [OwnFieldsKept]

/-- A boundary kind's command carries out the request that the walker holds, and nothing else. -/
theorem ownFieldsKept_boundaryStep {f : Held → Request → Option State} {s : State}
    (applies : ∀ h r t, f h r = some t → applyBoundary h r s = t) : OwnFieldsKept s (boundaryStep f s) :=
  boundaryStep_ind (.refl s) (fun _ _ kept => kept) (fun _ => ⟨rfl, rfl⟩)
    fun h r t _ _ e => applies h r t e ▸ ownFieldsKept_applyBoundary h r s

/-! ### Every command completes (log entry 26) -/

/-- Every command but the ATTENTION read leaves the queue and the read data alone. -/
theorem exec_ownFieldsKept {c : Instr} (other : c ≠ .attentionRead) (s : State) :
    ∃ t, exec c s = .next t ∧ OwnFieldsKept s t := by
  cases c
  case attentionRead => exact absurd rfl other
  case hardwareReset | ignoredRegisterWrite | lateResponse | resetnRise => exact ⟨_, rfl, rfl, rfl⟩
  case softwareReset data | runSet data | runClear data | resume data | look data | acceptedControlWrite data =>
    exact ⟨_, rfl, ownFieldsKept_controlWrite data s⟩
  case areaBaseWrite data => exact ⟨_, rfl, ownFieldsKept_areaBaseWrite data s⟩
  case attnEnableWrite data => exact ⟨_, rfl, ownFieldsKept_attnEnableWrite data s⟩
  case serviceWrite => exact ⟨_, rfl, ownFieldsKept_serviceWrite s⟩
  case headerReadComplete half => exact ⟨_, rfl, ownFieldsKept_headerRead half s⟩
  case errorResponse race | responseLimitExpiry race => exact ⟨_, rfl, ownFieldsKept_racedFault _ _ race s⟩
  case linkReadComplete link => exact ⟨_, rfl, ownFieldsKept_linkRead link s⟩
  case blockReadComplete block => exact ⟨_, rfl, ownFieldsKept_blockRead block s⟩
  case takenWriteComplete => exact ⟨_, rfl, ownFieldsKept_takenWritten s⟩
  case resultWriteComplete => exact ⟨_, rfl, ownFieldsKept_resultWritten s⟩
  case closedWriteComplete => exact ⟨_, rfl, ownFieldsKept_closedWritten s⟩
  case configOutput | setOutputs | givePages | reclaimPages | flushJournal | spot =>
    refine ⟨_, rfl, ownFieldsKept_workingStep fun h r t e => ?_⟩
    split at e <;> cases e
    simp [OwnFieldsKept]
  case configPoint | releasePoint | configGroup | setTiming | recalibrate | reseed | snapshot | mark =>
    refine ⟨_, rfl, ownFieldsKept_boundaryStep fun h r t e => ?_⟩
    split at e <;> cases e
    rfl
  case frameTimerExpiry ends => exact ⟨_, rfl, ownFieldsKept_frameEvent ends s⟩
  case scanConversionComplete count ends => exact ⟨_, rfl, ownFieldsKept_conversionEvent count ends s⟩
  case spotWriteComplete => exact ⟨_, rfl, ownFieldsKept_spotWritten s⟩
  case snapshotRecordWriteComplete => exact ⟨_, rfl, ownFieldsKept_snapshotWritten s⟩
  case journalWriteComplete => exact ⟨_, rfl, ownFieldsKept_journalWritten s⟩
  case mirrorWriteComplete => exact ⟨_, rfl, ownFieldsKept_mirrorWritten s⟩
  case spotSubconversionComplete | lingerExpiry | enterStopped => exact ⟨_, rfl, by simp [OwnFieldsKept]⟩

/-- Settles O2: the ATTENTION read by the queue alone, every other command by both of the model's own fields. -/
theorem everyCommandCompletes : Obligations.EveryCommandCompletes := by
  intro c s
  by_cases reads : c = .attentionRead
  · subst reads
    exact ⟨_, rfl, attentionRead_pending s, fun other => absurd rfl other⟩
  · obtain ⟨t, completes, queue, data⟩ := exec_ownFieldsKept reads s
    exact ⟨t, completes, queue, fun _ => data⟩

end Sys2Proof.Machine.Steps
end

section
/-! SUPPORT. 01_the_exchange_area_and_the_memory_port.md, proved: what AREA_BASE stores, what the header read decides, what a
command can write into shared memory, and what a memory fault leaves. -/

namespace Sys2Proof.Machine.MemoryPort

/-! ### AREA_BASE (R1) -/

/-- The low eight bits of what AREA_BASE stores are zero (R1). -/
theorem alignedArea_toNat (data : Word) : (alignedArea data).toNat = 256 * (data.toNat / 256) := by
  have mask : ∀ i < 32, (0xFFFFFF00#32).getLsbD i = decide (8 ≤ i) := by decide
  have shifted : alignedArea data = (data >>> 8) <<< 8 := by
    refine BitVec.eq_of_getLsbD_eq fun i hi => ?_
    rw [alignedArea, BitVec.getLsbD_and, mask i hi, BitVec.getLsbD_shiftLeft, BitVec.getLsbD_ushiftRight]
    by_cases low : i < 8
    · simp [low]
    · simp [low, hi, Nat.not_lt.1 low, Nat.add_sub_of_le (Nat.not_lt.1 low)]
  rw [shifted, BitVec.toNat_shiftLeft, BitVec.toNat_ushiftRight, Nat.shiftLeft_eq, Nat.shiftRight_eq_div_pow]
  have := data.isLt
  omega

/-- Settles O10: by the operating state. -/
theorem areaBaseWriteStores : Obligations.AreaBaseWriteStores := by
  intro data s free
  refine ⟨fun off => ⟨alignedArea data, alignedArea_toNat data, ?_, rfl⟩, fun other => ?_⟩ <;>
    refine congrArg Host.Outcome.next ?_
  · simp [areaBaseWrite, free, off]
  · simp [areaBaseWrite, free, other]

/-! ### Responses that belong to no access (R13) -/

/-- A completion of an access that is not the one on the interconnect changes nothing (log entry 3). -/
theorem exec_stray {c : Instr} {k : AccessKind} {s : State} (completes : completedWrite c = some k ∨ completedRead c = some k)
    (stray : s.serving k = false) : exec c s = .next s := by
  cases c <;> simp only [completedWrite, completedRead, Option.some.injEq, reduceCtorEq, or_false, false_or] at completes <;>
    subst completes <;> refine congrArg Host.Outcome.next ?_
  case headerReadComplete half => simp [headerRead, stray]
  case linkReadComplete link =>
    unfold linkRead
    split <;> simp [stray]
  case blockReadComplete block =>
    unfold blockRead
    split <;> simp [stray]
  case takenWriteComplete =>
    unfold takenWritten
    split <;> simp [stray]
  case resultWriteComplete =>
    unfold resultWritten
    split <;> simp [stray]
  case closedWriteComplete =>
    unfold closedWritten
    split <;> simp [stray]
  case spotWriteComplete =>
    unfold spotWritten
    split <;> simp [stray]
  case snapshotRecordWriteComplete =>
    unfold snapshotWritten
    split <;> simp [stray]
  case journalWriteComplete =>
    unfold journalWritten
    split <;> simp [stray]
  case mirrorWriteComplete => simp [mirrorWritten, stray]

/-- Settles O17: a late response by definition, a stray completion by the access that it asks for. -/
theorem strayResponsesChangeNothing : Obligations.StrayResponsesChangeNothing := fun _ =>
  ⟨rfl, fun _ _ completes stray => exec_stray completes stray⟩

/-! ### The header read (R2, R3, R108, R171) -/

theorem headerValid_iff (half : Vector Word 8) : headerValid half = true ↔ half[0] = 0x53503332#32 ∧ half[1] = 1#32 := by
  simp [headerValid, Config.areaSignature, Config.layoutVersion]

/-- The brisk period of the header, or 20 ms in place of one out of its range (R3). -/
theorem headerBrisk_eq (half : Vector Word 8) :
    headerBrisk half = if 1 ≤ half[3].toNat ∧ half[3].toNat ≤ 1000 then half[3].toNat else 20 := by
  simp only [headerBrisk, inRange, Config.defaultBrisk]
  split <;> simp_all

section
variable {s : State} {addr : Word} {rest : List Access} (loads : s.ctl.op = .loading)
  (reads : s.port = { kind := .headerRead, addr := addr, data := [] } :: rest)
include loads reads

theorem exec_headerReadComplete (half : Vector Word 8) : exec (.headerReadComplete half) s =
    .next (if headerValid half then enterRunning half (s.setPort rest) else refuseHeader (s.setPort rest)) := by
  refine congrArg Host.Outcome.next ?_
  rw [headerRead, if_pos ⟨by rw [State.serving_cons reads]; rfl, loads⟩, RequestChain.retire_read reads]

end

/-- Settles O19: by whether the header is valid. -/
theorem headerReadDecides : Obligations.HeaderReadDecides := by
  intro half s addr rest loads reads
  rw [exec_headerReadComplete loads reads]
  refine ⟨fun valid brisk hb => ?_, fun invalid => ?_⟩
  · rw [if_pos ((headerValid_iff half).2 valid), hb, ← headerBrisk_eq]
    rfl
  · rw [if_neg (by rw [headerValid_iff, not_and_or]; exact invalid)]
    rfl

/-! ### What a command does to shared memory (R8, R10, R12) -/

/-- Words that a mask names leave every address outside their burst alone. -/
theorem read_putMasked_other (mask : BitVec 16) {a c : Nat} : ∀ (words : List Word) {m : List Host.Cell} (i : Nat),
    (c < a ∨ a + 4 * (i + words.length) ≤ c) → Memory.read (Memory.putMasked m a mask i words) c = Memory.read m c
  | [], _, _, _ => rfl
  | w :: ws, m, i, outside => by
    simp only [List.length_cons] at outside
    rw [Memory.putMasked, read_putMasked_other mask ws (i + 1) (by omega)]
    split
    · exact Memory.read_putWord_other w (by omega)
    · rfl

/-- A burst that is written reads back byte by byte, least significant byte lowest (R188). -/
theorem read_putWords_byte {w : Word} {j : Nat} (byte : j < 4) : ∀ (words : List Word) {m : List Host.Cell} {a i : Nat},
    words[i]? = some w → Memory.read (Memory.putWords m a words) (a + 4 * i + j) = some (byteOf w j)
  | [], _, _, _, found => by simp at found
  | v :: vs, m, a, 0, found => by
    obtain rfl : v = w := by simpa using found
    rw [Memory.putWords, Memory.read_putWords_other vs (by omega)]
    exact Memory.read_putWord_byte m a v byte
  | v :: vs, m, a, i + 1, found => by
    have behind := read_putWords_byte byte vs (m := Memory.putWord m a v) (a := a + 4) (i := i) (by simpa using found)
    rw [show a + 4 * (i + 1) + j = a + 4 + 4 * i + j by omega]
    exact behind

/-- Memory is as it was, or the access on the interconnect has written it: whole, or some words of its burst. -/
inductive WrittenByAccess (s : State) : List Host.Cell → Prop where
  | kept : WrittenByAccess s s.mem
  | whole {a : Access} {rest : List Access} (port : s.port = a :: rest) :
    WrittenByAccess s (Memory.putWords s.mem a.addr.toNat a.data)
  | accepted {a : Access} {rest : List Access} (port : s.port = a :: rest) (mask : BitVec 16) {words : List Word}
    (burst : words.length ≤ a.data.length) : WrittenByAccess s (Memory.putMasked s.mem a.addr.toNat mask 0 words)

namespace WrittenByAccess

variable {s : State} {m : List Host.Cell} (written : WrittenByAccess s m)
include written

theorem wf (canonical : Memory.wf s.mem) : Memory.wf m := by
  cases written with
  | kept => exact canonical
  | whole => exact Memory.wf_putWords _ _ canonical
  | accepted port mask => exact Memory.wf_putMasked mask _ _ 0 canonical

theorem kept_of_empty (empty : s.port = []) : m = s.mem := by
  cases written with
  | kept => rfl
  | whole port => cases empty.symm.trans port
  | accepted port => cases empty.symm.trans port

/-- Outside the bytes of the access memory reads as before. -/
theorem read_outside {a : Access} {rest : List Access} (port : s.port = a :: rest) {x : Nat}
    (outside : x < a.addr.toNat ∨ a.addr.toNat + 4 * a.data.length ≤ x) : Memory.read m x = Memory.read s.mem x := by
  cases written with
  | kept => rfl
  | whole port' =>
    cases port.symm.trans port'
    exact Memory.read_putWords_other _ outside
  | accepted port' mask burst =>
    cases port.symm.trans port'
    exact read_putMasked_other mask _ 0 (by omega)

end WrittenByAccess

theorem burstWords_length_le (a : Access) : a.burstWords.length ≤ a.data.length := by
  unfold Access.burstWords
  split <;> simp_all

theorem retire_written (s : State) : WrittenByAccess s (retire s).mem := by
  cases port : s.port with
  | nil =>
    rw [retire, port]
    exact .kept
  | cons a rest =>
    rw [retire_cons port]
    exact .whole port

theorem abandonAccesses_written (leaves : Access → Bool) (s : State) : WrittenByAccess s (abandonAccesses leaves s).mem := by
  cases port : s.port with
  | nil =>
    rw [abandonAccesses_nil port]
    exact .kept
  | cons a rest =>
    have burst : (if leaves a then [] else a.burstWords).length ≤ a.data.length := by
      split
      · exact Nat.zero_le _
      · exact burstWords_length_le a
    rw [abandonAccesses, port]
    exact .accepted port _ burst

/-- The memory of a state that agrees with another on the port and on memory. -/
theorem WrittenByAccess.of_same {s u : State} {m : List Host.Cell} (written : WrittenByAccess u m) (port : u.port = s.port)
    (mem : u.mem = s.mem) : WrittenByAccess s m := by
  cases written with
  | kept =>
    rw [mem]
    exact .kept
  | whole head =>
    rw [mem]
    exact .whole (port.symm.trans head)
  | accepted head mask burst =>
    rw [mem]
    exact .accepted (port.symm.trans head) mask burst

theorem carryOut_mem (e : ScanEvent) (s : State) : (carryOut e s).mem = s.mem := by
  cases e with
  | scanConversion | frameExpiry => simp [carryOut]
  | boundary | stopOrder =>
    rw [carryOut]
    split <;> simp

theorem memoryFault_mem (kind : FaultKind) (cause : Cause) (s : State) :
    (memoryFault kind cause s).mem = (abandonAccesses Access.closesPage s).mem := by
  unfold memoryFault
  split
  · rename_i port
    rw [abandonAccesses_nil port]
  · simp [faultUnits]

/-- The event comes before the fault and leaves the access and memory alone (R166). -/
theorem beforeFault_mem (r : FaultRace) (s : State) : (beforeFault r s).mem = s.mem :=
  carryOut_mem r.event (s.setOut { s.out with entryAfter := some r.taken })

theorem racedFault_written (kind : FaultKind) (cause : Cause) (race : Option FaultRace) (s : State) :
    WrittenByAccess s (racedFault kind cause race s).mem := by
  unfold racedFault
  split
  · exact .kept
  · rw [memoryFault_mem]
    exact abandonAccesses_written _ s
  · rename_i r port
    rw [memoryFault_mem]
    exact (abandonAccesses_written _ (beforeFault r s)).of_same rfl (beforeFault_mem r s)

theorem controlWrite_written (data : Word) (s : State) : WrittenByAccess s (controlWrite data s).mem := by
  have same {t : State} (mem : t.mem = s.mem) : WrittenByAccess s t.mem := mem ▸ .kept
  unfold controlWrite
  split
  · exact .kept
  split
  · exact abandonAccesses_written _ s
  split
  · exact same (by simp)
  · exact same (by simp)

/-- A command that ends the access on the interconnect writes memory by that access at most. -/
theorem completion_written {s t : State} (mem : t.mem = (retire s).mem ∨ t.mem = s.mem) : WrittenByAccess s t.mem := by
  rcases mem with mem | mem <;> rw [mem]
  · exact retire_written s
  · exact .kept


/-! ### The commands that write memory, and those that do not -/

theorem headerRead_mem (half : Vector Word 8) (s : State) :
    (headerRead half s).mem = (retire s).mem ∨ (headerRead half s).mem = s.mem := by
  unfold headerRead
  (repeat' split) <;> simp

theorem linkRead_mem (link : Word) (s : State) : (linkRead link s).mem = (retire s).mem ∨ (linkRead link s).mem = s.mem := by
  unfold linkRead
  (repeat' split) <;> simp

theorem blockRead_mem (block : Vector Word 16) (s : State) :
    (blockRead block s).mem = (retire s).mem ∨ (blockRead block s).mem = s.mem := by
  unfold blockRead
  (repeat' split) <;> simp

theorem takenWritten_mem (s : State) : (takenWritten s).mem = (retire s).mem ∨ (takenWritten s).mem = s.mem := by
  unfold takenWritten
  (repeat' split) <;> simp

theorem resultWritten_mem (s : State) : (resultWritten s).mem = (retire s).mem ∨ (resultWritten s).mem = s.mem := by
  unfold resultWritten
  (repeat' split) <;> simp

theorem closedWritten_mem (s : State) : (closedWritten s).mem = (retire s).mem ∨ (closedWritten s).mem = s.mem := by
  unfold closedWritten
  (repeat' split) <;> simp

theorem spotWritten_mem (s : State) : (spotWritten s).mem = (retire s).mem ∨ (spotWritten s).mem = s.mem := by
  unfold spotWritten
  dsimp only
  (repeat' split) <;> simp

theorem snapshotWritten_mem (s : State) : (snapshotWritten s).mem = (retire s).mem ∨ (snapshotWritten s).mem = s.mem := by
  unfold snapshotWritten
  dsimp only
  (repeat' split) <;> simp

theorem journalWritten_mem (s : State) : (journalWritten s).mem = (retire s).mem ∨ (journalWritten s).mem = s.mem := by
  unfold journalWritten
  dsimp only
  (repeat' split) <;> simp

theorem mirrorWritten_mem (s : State) : (mirrorWritten s).mem = (retire s).mem ∨ (mirrorWritten s).mem = s.mem := by
  unfold mirrorWritten
  split <;> simp

theorem workingStep_mem {f : Held → Request → Option State} {s : State} (done : ∀ h r t, f h r = some t → t.mem = s.mem) :
    (workingStep f s).mem = s.mem :=
  workingStep_ind (P := fun x => x.mem = s.mem) rfl (fun _ _ same => same) fun h r t _ e => done h r t e

/-- A boundary kind's command carries out the request that the walker holds, and nothing else. -/
theorem boundaryStep_mem {f : Held → Request → Option State} {s : State}
    (applies : ∀ h r t, f h r = some t → applyBoundary h r s = t) : (boundaryStep f s).mem = s.mem :=
  boundaryStep_ind (P := fun x => x.mem = s.mem) rfl (fun _ _ same => same) (fun _ => rfl) fun h r t _ _ e => by
    simp [← applies h r t e]

/-- A command that may end the access on the interconnect writes memory by that access at most, and every other command
leaves memory as it was. -/
theorem exec_written (c : Instr) (s : State) :
    ∃ t, exec c s = .next t ∧ WrittenByAccess s t.mem ∧ (endsAccess c = false → t.mem = s.mem) := by
  have ends {c : Instr} {t : State} (run : exec c s = .next t) (written : WrittenByAccess s t.mem) (ending : endsAccess c = true) :
      ∃ t, exec c s = .next t ∧ WrittenByAccess s t.mem ∧ (endsAccess c = false → t.mem = s.mem) :=
    ⟨t, run, written, fun other => by simp [ending] at other⟩
  have keeps {c : Instr} {t : State} (run : exec c s = .next t) (mem : t.mem = s.mem) :
      ∃ t, exec c s = .next t ∧ WrittenByAccess s t.mem ∧ (endsAccess c = false → t.mem = s.mem) :=
    ⟨t, run, mem ▸ .kept, fun _ => mem⟩
  cases c
  case hardwareReset low => exact ends rfl (abandonAccesses_written _ s) rfl
  case softwareReset data | runSet data | runClear data | resume data | look data | acceptedControlWrite data =>
    exact ends rfl (controlWrite_written data s) rfl
  case errorResponse race | responseLimitExpiry race => exact ends rfl (racedFault_written _ _ race s) rfl
  case headerReadComplete half => exact ends rfl (completion_written (headerRead_mem half s)) rfl
  case linkReadComplete link => exact ends rfl (completion_written (linkRead_mem link s)) rfl
  case blockReadComplete block => exact ends rfl (completion_written (blockRead_mem block s)) rfl
  case takenWriteComplete => exact ends rfl (completion_written (takenWritten_mem s)) rfl
  case resultWriteComplete => exact ends rfl (completion_written (resultWritten_mem s)) rfl
  case closedWriteComplete => exact ends rfl (completion_written (closedWritten_mem s)) rfl
  case spotWriteComplete => exact ends rfl (completion_written (spotWritten_mem s)) rfl
  case snapshotRecordWriteComplete => exact ends rfl (completion_written (snapshotWritten_mem s)) rfl
  case journalWriteComplete => exact ends rfl (completion_written (journalWritten_mem s)) rfl
  case mirrorWriteComplete => exact ends rfl (completion_written (mirrorWritten_mem s)) rfl
  case areaBaseWrite | attnEnableWrite | attentionRead | serviceWrite =>
    refine keeps rfl ?_
    simp only [areaBaseWrite, attnEnableWrite, attentionRead, serviceWrite]
    (repeat' split) <;> rfl
  case ignoredRegisterWrite | lateResponse | resetnRise => exact keeps rfl rfl
  case configOutput | setOutputs | givePages | reclaimPages | flushJournal | spot =>
    refine keeps rfl (workingStep_mem fun h r t e => ?_)
    split at e <;> cases e
    simp
  case configPoint | releasePoint | configGroup | setTiming | recalibrate | reseed | snapshot | mark =>
    refine keeps rfl (boundaryStep_mem fun h r t e => ?_)
    split at e <;> cases e
    rfl
  case frameTimerExpiry | scanConversionComplete | spotSubconversionComplete | lingerExpiry | enterStopped =>
    exact keeps rfl (by simp)

/-- Settles O53: what the access on the interconnect writes keeps the canonical form, and nothing else is written. -/
theorem memoryStaysCanonical : Obligations.MemoryStaysCanonical := by
  intro s t canonical e
  unfold step at e
  split at e
  · cases e
    exact canonical
  · rename_i c rest _
    obtain ⟨u, run, written, -⟩ := exec_written c (s.setPending rest)
    rw [run] at e
    cases e
    exact written.wf canonical

/-! ### A write that completes (R8, R10) -/

/-- The access on the interconnect is one that its agent has in the port. -/
theorem mem_accessesOf {s : State} {a : Access} {rest : List Access} (port : s.port = a :: rest) :
    a ∈ s.accessesOf a.kind.agent := by
  simp [State.accessesOf, port]

section
variable {s : State} {a : Access} (waits : a ∈ s.walkerAccess)
include waits

theorem fetchTaken_of_takenWrite (kind : a.kind = .takenWrite) : ∃ h, s.wk.state = .fetchTaken h := by
  unfold State.walkerAccess at waits
  (repeat' split at waits) <;> simp_all

theorem closingResult_of_resultWrite (kind : a.kind = .resultWrite) : ∃ h ans, s.wk.state = .closingResult h ans := by
  unfold State.walkerAccess at waits
  (repeat' split at waits) <;> simp_all

theorem closingStatus_of_closedWrite (kind : a.kind = .closedWrite) : ∃ h ans, s.wk.state = .closingStatus h ans := by
  unfold State.walkerAccess at waits
  (repeat' split at waits) <;> simp_all

end

/-- The completion of a write on the interconnect finds the agent that waits for it, and the write stands in memory. -/
theorem exec_completes {c : Instr} {k : AccessKind} {s : State} {a : Access} {rest : List Access}
    (completes : completedWrite c = some k) (ok : s.PortOk) (port : s.port = a :: rest) (kind : a.kind = k)
    (records : k = .snapshotWrite → s.spt.snapshot ≠ none) : ∃ t, exec c s = .next t ∧ t.mem = (retire s).mem := by
  obtain ⟨-, walker, journal, spot, -⟩ := ok
  have held := mem_accessesOf port
  have serves : s.serving k = true := by rw [State.serving_cons port, kind, beq_self_eq_true]
  rw [kind] at held
  cases c <;> simp only [completedWrite, Option.some.injEq, reduceCtorEq] at completes <;> subst completes <;>
    refine ⟨_, rfl, ?_⟩
  case takenWriteComplete =>
    obtain ⟨h, state⟩ := fetchTaken_of_takenWrite (walker ▸ held) kind
    simp [takenWritten, state, serves]
  case resultWriteComplete =>
    obtain ⟨h, ans, state⟩ := closingResult_of_resultWrite (walker ▸ held) kind
    simp [resultWritten, state, serves]
  case closedWriteComplete =>
    obtain ⟨h, ans, state⟩ := closingStatus_of_closedWrite (walker ▸ held) kind
    simp [closedWritten, state, serves]
  case spotWriteComplete =>
    rw [show AccessKind.spotWrite.agent = .spot from rfl, spot] at held
    split at held
    · cases held
    · rename_i w ws writes
      simp only [spotWritten, writes, serves, if_true]
      split <;> simp
  case snapshotRecordWriteComplete =>
    obtain ⟨job, snapshot⟩ := Option.ne_none_iff_exists'.1 (records rfl)
    simp only [snapshotWritten, snapshot, serves, if_true]
    split <;> simp
  case journalWriteComplete =>
    rw [show AccessKind.journalWrite.agent = .journal from rfl, journal] at held
    split at held
    · cases held
    · rename_i w ws writes
      simp only [journalWritten, writes, serves, if_true]
      split <;> simp
  case mirrorWriteComplete => simp [mirrorWritten, serves]

/-- Settles O18: what a command writes it writes by the access on the interconnect, and a write that completes whole. -/
theorem memoryChangesOnlyByAccess : Obligations.MemoryChangesOnlyByAccess := by
  refine ⟨fun c s t run => ?_, fun c k s a rest completes ok port kind records => ?_⟩
  · obtain ⟨u, run', written, keeps⟩ := exec_written c s
    cases run.symm.trans run'
    exact ⟨keeps, written.kept_of_empty, fun a rest x port outside => written.read_outside port outside⟩
  · obtain ⟨t, run, mem⟩ := exec_completes completes ok port kind records
    refine ⟨t, run, fun i j w word byte => ?_⟩
    rw [mem, retire_cons port]
    exact read_putWords_byte byte a.data word

/-! ### Memory faults (R12, R166, R175) -/

/-- The commands of a memory fault, with the fault kind and the cause's bit of each (R11, R12). -/
theorem exec_fault {c : Instr} {race : Option FaultRace} {kind : FaultKind} {bit : BitVec 3}
    (fault : c = .errorResponse race ∧ kind = .memError ∧ bit = 1 ∨ c = .responseLimitExpiry race ∧ kind = .memTimeout ∧ bit = 2)
    (s : State) : ∃ cause : Cause, (cause = .memError ∧ bit = 1 ∨ cause = .memTimeout ∧ bit = 2) ∧
      exec c s = .next (racedFault kind cause race s) := by
  rcases fault with ⟨rfl, rfl, rfl⟩ | ⟨rfl, rfl, rfl⟩
  · exact ⟨.memError, .inl ⟨rfl, rfl⟩, rfl⟩
  · exact ⟨.memTimeout, .inr ⟨rfl, rfl⟩, rfl⟩

section
variable {s : State} {a : Access} {rest : List Access} (port : s.port = a :: rest) (kind : FaultKind) (cause : Cause)
include port

theorem racedFault_alone : racedFault kind cause none s = memoryFault kind cause s := by
  simp [racedFault, port]

theorem racedFault_raced (r : FaultRace) : racedFault kind cause (some r) s = memoryFault kind cause (beforeFault r s) := by
  simp [racedFault, port]

/-- An access that fails whole leaves memory as it was (R36, R155, R135, R146). -/
theorem memoryFault_leaves (whole : a.FaultLeavesMemory) : (memoryFault kind cause s).mem = s.mem := by
  rw [memoryFault_mem]
  exact abandonAccesses_leaves port whole.leaves

end

/-- What an event leaves is faulted as the state that it leaves, whose port the fault empties. -/
theorem memoryFault_raced {s : State} {a : Access} {rest : List Access} (port : s.port = a :: rest) {kind : FaultKind}
    {cause : Cause} {bit : BitVec 3} (named : cause = .memError ∧ bit = 1 ∨ cause = .memTimeout ∧ bit = 2) (r : FaultRace) :
    (carryOut r.event (s.setOut { s.out with entryAfter := some r.taken })).FaultedBy a kind bit
      (memoryFault kind cause (beforeFault r s)) :=
  memoryFault_faults (s := beforeFault r s) port named

/-- With the entry to FAULTED before every report of the event, the view and the lines are those from before it (R166). -/
theorem memoryFault_entryFirst {s : State} {a : Access} {rest : List Access} (port : s.port = a :: rest) {kind : FaultKind}
    {cause : Cause} {bit : BitVec 3} (named : cause = .memError ∧ bit = 1 ∨ cause = .memTimeout ∧ bit = 2) {r : FaultRace}
    (first : r.taken = 0) : (memoryFault kind cause (beforeFault r s)).out.view = s.out.view ∧
      State.LinesAtFault s.out (memoryFault kind cause (beforeFault r s)) := by
  have out := carryOut_entryFirst (s := s.setOut { s.out with entryAfter := some r.taken }) (congrArg some first) r.event
  obtain ⟨-, -, -, -, -, -, -, -, -, view, -, lines, -⟩ := memoryFault_raced port (kind := kind) named r
  rw [out] at view lines
  exact ⟨view, lines⟩

/-- Settles O15: the fault alone by what it makes of the state, and together with an event by what it makes of what the event
leaves. -/
theorem memoryFaultStopsAll : Obligations.MemoryFaultStopsAll := by
  intro s race c kind bit fault
  obtain ⟨cause, named, run⟩ := exec_fault fault s
  refine ⟨fun empty => by simp [run, racedFault, empty], fun a rest port => ⟨_, run, fun whole => ?_, fun alone => ?_,
    fun r raced => ⟨⟨_, carryOut_led r.event _, ?_⟩, fun first => ?_⟩⟩⟩
  · cases race with
    | none =>
      rw [racedFault_alone port]
      exact memoryFault_leaves port kind cause whole
    | some r =>
      rw [racedFault_raced port]
      exact (memoryFault_leaves (s := beforeFault r s) port kind cause whole).trans (beforeFault_mem r s)
  · rw [alone, racedFault_alone port]
    exact memoryFault_faults port named
  · rw [raced, racedFault_raced port]
    exact memoryFault_raced port named r
  · rw [raced, racedFault_raced port]
    exact memoryFault_entryFirst port named first

end Sys2Proof.Machine.MemoryPort
end

section
/-! SUPPORT. 07_frames_and_scan_timing.md, proved: one induction over the frames that begin and end in an event of the scan
engine, for every property that each part of an event keeps. -/

namespace Sys2Proof.Machine.FrameEvents

/-! ### What the frames of one event keep (R112, R113, R119) -/

/-- `P` is kept by each part that the frames of an event of the scan engine are made of, in the state in which the event comes
to it: an expiry that begins a frame, the start that waited for a frame's end, an expiry inside a frame and one that finds the
engine in no frame's turn, a frame's end up to the request that waits, and the request applied or marked as one that waits. -/
structure KeptByFrames (P : State → Prop) : Prop where
  begins : ∀ {s : State}, s.eng.frameState = .waiting → P s → P (admissionCheck (s.setEng s.eng.restarted))
  resumes : ∀ {s : State}, s.eng.startPending = true → s.eng.frameState = .waiting → P s →
    P (admissionCheck (s.setEng { s.eng with startPending := false }))
  counts : ∀ {s : State}, s.eng.frameState = .scanning → P s → P (s.setEng s.eng.expiredInFrame)
  idles : ∀ {s : State}, s.eng.frameState = .parked ∨ s.eng.frameState = .cutting → P s → P (s.setEng s.eng.restarted)
  leaves : ∀ {s : State} (x : EndExpiries), P s → P (leaveScanning x s)
  applies : ∀ {s : State}, P s → P (applyWaiting s)
  reaches : ∀ {s : State}, P s → P (s.setWk s.wk.reached)

namespace KeptByFrames

variable {P : State → Prop} (kept : KeptByFrames P)
include kept

theorem applyReached {s : State} (h : P s) : P (applyReached s) := by
  unfold Machine.applyReached
  split
  · exact kept.applies h
  · exact h

theorem reachEngine {s : State} (h : P s) : P (reachEngine s) := by
  unfold Machine.reachEngine
  split
  · exact kept.applies h
  · exact kept.reaches h

theorem endFrame {s : State} (h : P s) : P (endFrame s) := kept.applies (kept.leaves _ h)

theorem finishPlain {s : State} (h : P s) : P (finishPlain s) := by
  have ends := kept.endFrame h
  obtain ⟨waits, -⟩ := FrameTiming.endFrame_eng s
  unfold Machine.finishPlain
  dsimp only
  split
  · split
    · rename_i pending
      have begun := kept.resumes pending waits ends
      split
      · exact kept.endFrame begun
      · exact begun
    · exact ends
  · exact h

section
variable {finish : List EndExpiries → State → List EndExpiries × State}
  (finishes : ∀ (l : List EndExpiries) (x : State), P x → P (finish l x).2)
include finishes

/-- An expiry keeps what the end of a frame that it begins keeps. -/
theorem expire {s : State} (h : P s) (ends : List EndExpiries) : P (expire finish ends s).2 := by
  unfold Machine.expire
  split
  · exact h
  · split <;> rename_i state
    · exact finishes _ _ (kept.begins state h)
    · exact kept.counts state h
    · exact kept.idles (.inl state) h
    · exact kept.idles (.inr state) h

theorem expireTimes : ∀ (n : Nat) {s : State} (_ : P s) (ends : List EndExpiries), P (expireTimes finish n ends s).2
  | 0, _, h, _ => h
  | n + 1, _, h, ends => expireTimes n (kept.expire finishes h ends) _

end

theorem finishFrame : ∀ (n : Nat) (ends : List EndExpiries) (s : State), P s → P (finishFrame n ends s).2
  | 0, _, _, h => kept.finishPlain h
  | _ + 1, [], _, h => kept.finishPlain h
  | n + 1, x :: xs, s, h => by
    have finishes := finishFrame n
    have reached := kept.applyReached (kept.leaves x h)
    unfold Machine.finishFrame
    dsimp only
    split
    · have expired := kept.expireTimes finishes x.unreached reached xs
      generalize Machine.expireTimes (Machine.finishFrame n) x.unreached xs _ = r at expired ⊢
      have left := kept.expireTimes finishes x.left (kept.reachEngine expired) r.1
      generalize Machine.expireTimes (Machine.finishFrame n) x.left r.1 _ = r' at left ⊢
      split
      · rename_i starts
        exact finishes _ _ (kept.resumes starts.1 starts.2 left)
      · exact left
    · exact h

theorem frameExpiry {s : State} (h : P s) (ends : List EndExpiries) : P (frameExpiry ends s) :=
  kept.expire (kept.finishFrame _) h ends

end KeptByFrames

/-! ### What an admission check makes of the engine and the walker (R115, R116) -/

/-- A frame skipped is counted in the gap, and a frame begun takes the frame number and reports the gap (R115, R116, R117). -/
theorem admissionCheck_eng (s : State) :
    (admissionCheck s).eng.frameTimer = s.eng.frameTimer ∧ (admissionCheck s).eng.frameNumber = s.eng.frameNumber ∧
    (admissionCheck s).eng.merged = s.eng.merged ∧
    ((admissionCheck s).eng.frameState = .waiting ∧ (admissionCheck s).eng.frameInProgress = s.eng.frameInProgress ∧
        (admissionCheck s).eng.gap = s.eng.gap + 1 ∧ (admissionCheck s).eng.startPending = s.eng.startPending ∨
      (admissionCheck s).eng.frameState = .scanning ∧ (admissionCheck s).eng.frameInProgress = s.eng.frameNumber ∧
        (admissionCheck s).eng.gap = 0 ∧ (admissionCheck s).eng.startPending = false) := by
  by_cases room : s.HasRoom
  · rw [FrameTiming.frameBegun_eng (admissionCheck_begins room)]
    exact ⟨rfl, rfl, rfl, .inr ⟨rfl, rfl, rfl, rfl⟩⟩
  · obtain ⟨eng, -⟩ := admissionCheck_skips room
    rw [eng]
    exact ⟨rfl, rfl, rfl, .inl ⟨rfl, rfl, rfl, rfl⟩⟩

/-! ### The walker is IDLE after the parts of an event where it was before -/

theorem reached_idle (w : Walker) : w.reached.state = .idle ↔ w.state = .idle := by
  unfold Walker.reached
  split <;> simp_all

theorem frameBoundary_idle (s : State) : (frameBoundary s).wk.state = .idle ↔ s.wk.state = .idle := by
  rw [frameBoundary_wk]
  split <;> simp_all

theorem journalFrameOver_idle (s : State) : (journalFrameOver s).wk.state = .idle ↔ s.wk.state = .idle := by
  rw [journalFrameOver_wk]
  split
  · split <;> simp_all
  · rfl

theorem answer_idle (h : Held) (a : Answer) (s : State) : (answer h a s).wk.state ≠ .idle := by
  rw [OperatingStates.answer_wk]
  simp

theorem applyBoundary_idle {h : Held} {r : Request} (kind : r.cls = .boundary) (s : State) :
    (applyBoundary h r s).wk.state ≠ .idle := by
  cases r <;> simp only [Request.cls, reduceCtorEq] at kind <;>
    simp only [applyBoundary, applyConfigPoint, applyReleasePoint, applyConfigGroup, applySetTiming, applyRecalibrate, applyReseed,
      applySnapshot, applyMark] <;>
    (repeat' split) <;> simp [OperatingStates.answer_wk]

theorem applyWaiting_idle (s : State) : (applyWaiting s).wk.state = .idle ↔ s.wk.state = .idle := by
  unfold applyWaiting
  split
  · rename_i h r found
    obtain ⟨holds, -, kind⟩ := State.awaits_of_found found
    exact iff_of_false (applyBoundary_idle kind s) fun idle => by simp [idle] at holds
  · rfl

theorem leaveScanning_idle (x : EndExpiries) (s : State) : (leaveScanning x s).wk.state = .idle ↔ s.wk.state = .idle := by
  simp [leaveScanning, frameBoundary_idle, journalFrameOver_idle]

theorem admissionCheck_idle (s : State) : (admissionCheck s).wk.state = .idle ↔ s.wk.state = .idle := by
  have asked := askRoom_keeps s s.eng.reservation
  unfold admissionCheck
  generalize askRoom s.eng.reservation s = answer at asked ⊢
  obtain ⟨room, t⟩ := answer
  obtain ⟨-, (wk : t.wk = s.wk), -⟩ := asked
  cases room
  · simp [skipFrame, frameBoundary_idle, wk]
  · simp [reached_idle, wk]

/-! ### What the end of a frame makes of the engine (R119, R120) -/

theorem expiriesInFrame_ind {P : ScanEngine → Prop} (expires : ∀ e, P e → P e.expiredInFrame) :
    ∀ (n : Nat) {s : State}, P s.eng → P (expiriesInFrame n s).eng
  | 0, _, h => h
  | n + 1, s, h => by
    unfold expiriesInFrame
    split
    · exact h
    · exact expiriesInFrame_ind expires n (expires _ h)

/-- What the judgment, each expiry, and each addition of the merged count keep, the end of a frame keeps, up to WAITING. -/
theorem leaveScanning_ind {P : ScanEngine → Prop} (judges : ∀ e, P e → P e.judge) (expires : ∀ e, P e → P e.expiredInFrame)
    (adds : ∀ e, P e → P { e with gap := e.gap + e.merged, merged := 0 })
    (waits : ∀ e, P e → P { e with frameState := .waiting }) (x : EndExpiries) {s : State} (h : P s.eng) :
    P (leaveScanning x s).eng := by
  have counted (n : Nat) {u : State} (hu : P u.eng) : P (expiriesCounted n u).eng := adds _ (expiriesInFrame_ind expires n hu)
  have judged := expiriesInFrame_ind expires x.judged (s := s.setEng s.eng.judge) (judges _ h)
  have told := expiriesInFrame_ind expires x.told (s := journalFrameOver _) (by simpa using judged)
  have captured := counted x.captured (u := capture false _) (by simpa using counted x.counted (u := addMerged _) (adds _ told))
  exact waits _ (counted x.announced (u := frameBoundary _) (by simpa using captured))

theorem leaveScanning_merged (x : EndExpiries) (s : State) : (leaveScanning x s).eng.merged = 0 := rfl

end Sys2Proof.Machine.FrameEvents
end

section
/-! SUPPORT. 11_operating_states_registers_and_attention.md, proved: every step keeps what each operating state says of the
control unit and the units (R169, R173, R178), and R117's relation of the frame number to the counts. -/

namespace Sys2Proof.Machine.ModeSteps

open FrameEvents

/-! ### R117's relation through an event of the scan engine -/

/-- The frame number is that of the last admitted frame, with what has expired since (R117). -/
def Counted (e : ScanEngine) : Prop := e.frameNumber = e.frameInProgress + e.gap + e.merged + (if e.startPending then 1 else 0)

theorem counted_expiredInFrame (e : ScanEngine) (h : Counted e) : Counted e.expiredInFrame := by
  rw [FrameTiming.expiredInFrame_eq]
  unfold Counted at h ⊢
  simp only [h]
  cases e.startPending <;> simp [BitVec.add_assoc]

theorem counted_judge (e : ScanEngine) (h : Counted e) : Counted e.judge := by
  unfold ScanEngine.judge
  dsimp only
  (repeat' split) <;> exact h

theorem counted_addMerged (e : ScanEngine) (h : Counted e) : Counted { e with gap := e.gap + e.merged, merged := 0 } := by
  unfold Counted at h ⊢
  simp [h, BitVec.add_assoc]

theorem counted_leaveScanning (x : EndExpiries) {s : State} (h : Counted s.eng) : Counted (leaveScanning x s).eng :=
  leaveScanning_ind counted_judge counted_expiredInFrame counted_addMerged (fun _ h => h) x h

/-- An admission check counts the expiry that it answers, if that is not counted yet: the frame number is one ahead. -/
theorem counted_admissionCheck {s : State} (merged : s.eng.merged = 0)
    (ahead : s.eng.frameNumber = s.eng.frameInProgress + s.eng.gap + (if s.eng.startPending then 1 else 0) + 1) :
    Counted (admissionCheck s).eng := by
  obtain ⟨-, number, same, skipped | begun⟩ := admissionCheck_eng s
  · obtain ⟨-, last, gap, pending⟩ := skipped
    unfold Counted
    rw [number, same, last, gap, pending, ahead, merged]
    split <;> simp [BitVec.add_assoc]
  · obtain ⟨-, last, gap, pending⟩ := begun
    unfold Counted
    simp [number, same, last, gap, pending, merged]

/-- The engine runs frames: the timer runs, the walker is not IDLE, and the engine is in WAITING or SCANNING, as in RUNNING. -/
def RunsFrames (s : State) : Prop :=
  s.eng.frameTimer.isSome = true ∧ s.wk.state ≠ .idle ∧ (s.eng.frameState = .waiting ∨ s.eng.frameState = .scanning)

theorem runsFrames_admissionCheck {s : State} (timer : s.eng.frameTimer.isSome = true) (walker : s.wk.state ≠ .idle) :
    RunsFrames (admissionCheck s) := by
  obtain ⟨same, -, -, state⟩ := admissionCheck_eng s
  exact ⟨by rw [same, timer], by rwa [ne_eq, admissionCheck_idle], state.imp And.left And.left⟩

theorem runsFrames_leaveScanning (x : EndExpiries) {s : State} (h : RunsFrames s) : RunsFrames (leaveScanning x s) := by
  obtain ⟨timer, walker, -⟩ := h
  refine ⟨?_, by rwa [ne_eq, leaveScanning_idle], .inl rfl⟩
  refine leaveScanning_ind (P := fun e => e.frameTimer.isSome = true) (fun e h => ?_) (fun e _ => ?_) (fun _ h => h)
    (fun _ h => h) x timer
  · unfold ScanEngine.judge
    dsimp only
    (repeat' split) <;> simp [h]
  · rw [FrameTiming.expiredInFrame_eq]
    rfl

theorem runsFrames_kept : KeptByFrames RunsFrames where
  begins _ h := runsFrames_admissionCheck rfl h.2.1
  resumes _ _ h := runsFrames_admissionCheck h.1 h.2.1
  counts scanning h := by
    rw [FrameTiming.expiredInFrame_eq]
    exact ⟨rfl, h.2.1, .inr scanning⟩
  idles := by
    rintro s (state | state) ⟨-, -, runs⟩ <;> simp [state] at runs
  leaves x h := runsFrames_leaveScanning x h
  applies h := by simpa [RunsFrames, applyWaiting_idle] using h
  reaches h := ⟨h.1, by rw [State.setWk_wk, ne_eq, reached_idle]; exact h.2.1, h.2.2⟩

/-- Inside an event the relation holds, and in WAITING nothing is merged; a start may be pending there until the event is over. -/
def CountsFrames (s : State) : Prop := RunsFrames s ∧ Counted s.eng ∧ (s.eng.frameState = .waiting → s.eng.merged = 0)

theorem countsFrames_admissionCheck {s : State} (runs : RunsFrames (admissionCheck s)) (merged : s.eng.merged = 0)
    (ahead : s.eng.frameNumber = s.eng.frameInProgress + s.eng.gap + (if s.eng.startPending then 1 else 0) + 1) :
    CountsFrames (admissionCheck s) := by
  obtain ⟨-, -, same, -⟩ := admissionCheck_eng s
  exact ⟨runs, counted_admissionCheck merged ahead, fun _ => same.trans merged⟩

theorem countsFrames_kept : KeptByFrames CountsFrames where
  begins {s} waiting h := by
    obtain ⟨runs, counted, merged⟩ := h
    refine countsFrames_admissionCheck (runsFrames_kept.begins waiting runs) (merged waiting) ?_
    unfold Counted at counted
    simp [ScanEngine.restarted, counted, merged waiting]
  resumes {s} pending waiting h := by
    obtain ⟨runs, counted, merged⟩ := h
    refine countsFrames_admissionCheck (runsFrames_kept.resumes pending waiting runs) (merged waiting) ?_
    unfold Counted at counted
    simp [counted, merged waiting, pending]
  counts {s} scanning h := by
    refine ⟨runsFrames_kept.counts scanning h.1, counted_expiredInFrame _ h.2.1, fun waiting => ?_⟩
    rw [FrameTiming.expiredInFrame_eq] at waiting
    simp [scanning] at waiting
  idles state h := by
    obtain ⟨⟨-, -, runs⟩, -⟩ := h
    rcases state with state | state <;> simp [state] at runs
  leaves x h := ⟨runsFrames_leaveScanning x h.1, counted_leaveScanning x h.2.1, fun _ => leaveScanning_merged x _⟩
  applies {s} h := by
    obtain ⟨runs, counted, merged⟩ := h
    refine ⟨runsFrames_kept.applies runs, ?_, ?_⟩
    · unfold Counted at counted ⊢
      simpa using counted
    · simpa using merged
  reaches h := ⟨runsFrames_kept.reaches h.1, h.2⟩

/-! ### No start is pending between the frames of events (R113, R119 step 7) -/

/-- In WAITING no start is pending. -/
def StartTaken (s : State) : Prop := s.eng.frameState = .waiting → s.eng.startPending = false

theorem startTaken_admissionCheck {s : State} (clear : s.eng.startPending = false) : StartTaken (admissionCheck s) := by
  obtain ⟨-, -, -, skipped | begun⟩ := admissionCheck_eng s
  · obtain ⟨-, -, -, pending⟩ := skipped
    exact fun _ => pending.trans clear
  · obtain ⟨-, -, -, pending⟩ := begun
    exact fun _ => pending

/-- A frame that is done was begun or is in progress, so that the engine is not in WAITING. -/
theorem not_waiting_of_done {s : State} (done : s.frameDone = true) : s.eng.frameState ≠ .waiting := fun waiting => by
  simp [State.frameDone, waiting] at done

/-- A frame that an admission check begins finds no start pending, whether it is done at once or not. -/
theorem startPending_of_begun {s : State} (done : (admissionCheck s).frameDone = true) :
    (admissionCheck s).eng.startPending = false := by
  obtain ⟨-, -, -, skipped | begun⟩ := admissionCheck_eng s
  · obtain ⟨waiting, -⟩ := skipped
    exact absurd waiting (not_waiting_of_done done)
  · obtain ⟨-, -, -, pending⟩ := begun
    exact pending

theorem startTaken_finishPlain {s : State} (h : StartTaken s) : StartTaken (finishPlain s) := by
  unfold finishPlain
  dsimp only
  split
  · split
    · split
      · rename_i done
        exact fun _ => (endFrame_startPending _).trans (startPending_of_begun done)
      · exact startTaken_admissionCheck rfl
    · rename_i clear
      exact fun _ => by simpa using clear
  · exact h

theorem startTaken_finishFrame : ∀ (n : Nat) (ends : List EndExpiries) (s : State), StartTaken s →
    StartTaken (finishFrame n ends s).2
  | 0, _, _, h => startTaken_finishPlain h
  | _ + 1, [], _, h => startTaken_finishPlain h
  | n + 1, x :: xs, s, h => by
    unfold finishFrame
    dsimp only
    split
    · split
      · exact startTaken_finishFrame n _ _ (startTaken_admissionCheck rfl)
      · rename_i settled
        exact fun waiting => by simpa using fun pending => settled ⟨pending, waiting⟩
    · exact h

/-! ### Events of the scan engine in RUNNING (R112, R42) -/

/-- A slot's work and the converter's release leave the frame items, and the walker, alone. -/
theorem runsFrames_released {s : State} (p : PointId) (c : Half) (h : RunsFrames s) :
    RunsFrames (releaseConverter (measurePoint p c s)) := by
  simpa [RunsFrames] using h

theorem runSlots_idle (ps : List PointId) (s : State) : (runSlots ps s).wk.state = .idle ↔ s.wk.state = .idle := by
  rcases runSlots_wk s ps with same | reached
  · rw [same]
  · rw [reached, reached_idle]

theorem runsFrames_runSlots (ps : List PointId) {s : State} (h : RunsFrames s) : RunsFrames (runSlots ps s) := by
  simpa [RunsFrames, runSlots_idle] using h

theorem runsFrames_scanConversion {s : State} (c : Half) (ends : List EndExpiries) (h : RunsFrames s) :
    RunsFrames (scanConversion c ends s) := by
  unfold scanConversion
  dsimp only
  split
  · rename_i p _ _
    have released := runsFrames_released p c h
    generalize releaseConverter (measurePoint p c s) = u at released ⊢
    split
    · exact runsFrames_kept.finishFrame _ _ _ (runsFrames_runSlots _ released)
    · rename_i cutting
      obtain ⟨-, -, runs⟩ := released
      simp [cutting] at runs
    · exact released
    · exact released
  · exact h

/-- What the gap count needs of a state between the steps of RUNNING (R117). -/
def CountsSteps (s : State) : Prop := CountsFrames s ∧ StartTaken s

theorem countsSteps_frameExpiry {s : State} (ends : List EndExpiries) (h : CountsSteps s) : CountsSteps (frameExpiry ends s) := by
  obtain ⟨counts, clear⟩ := h
  refine ⟨countsFrames_kept.frameExpiry counts ends, ?_⟩
  obtain ⟨⟨timer, -, runs⟩, -⟩ := counts
  obtain ⟨v, timer⟩ := Option.isSome_iff_exists.1 timer
  rcases runs with waiting | scanning
  · rw [FrameTiming.frameExpiry_waiting timer ends waiting]
    exact startTaken_finishFrame _ _ _ (startTaken_admissionCheck (clear waiting))
  · rw [FrameTiming.frameExpiry_scanning timer ends scanning, FrameTiming.expiredInFrame_eq]
    exact fun waiting => by simp [scanning] at waiting

theorem countsSteps_scanConversion {s : State} (c : Half) (ends : List EndExpiries) (h : CountsSteps s) :
    CountsSteps (scanConversion c ends s) := by
  unfold scanConversion
  dsimp only
  split
  · rename_i p _ _
    have released : CountsSteps (releaseConverter (measurePoint p c s)) := by
      simpa [CountsSteps, CountsFrames, RunsFrames, Counted, StartTaken] using h
    generalize releaseConverter (measurePoint p c s) = u at released ⊢
    obtain ⟨counts, clear⟩ := released
    split
    · rename_i scanning
      have begun : CountsFrames (runSlots (pointsAfter p) u) :=
        ⟨runsFrames_runSlots _ counts.1, by simpa [Counted] using counts.2⟩
      exact ⟨countsFrames_kept.finishFrame _ _ _ begun,
        startTaken_finishFrame _ _ _ fun waiting => by simp [scanning] at waiting⟩
    · rename_i cutting
      obtain ⟨⟨-, -, runs⟩, -⟩ := counts
      simp [cutting] at runs
    · exact ⟨counts, clear⟩
    · exact ⟨counts, clear⟩
  · exact h

/-- In RUNNING the relation of the counts is what the steps of RUNNING keep. -/
theorem countsSteps_iff {s : State} (runs : RunsFrames s) (op : s.ctl.op = .running) : CountsSteps s ↔ s.GapCounts := by
  have state := runs.2.2
  have between : s.betweenFrames = true ↔ s.eng.frameState = .waiting := by
    rcases state with state | state <;> simp [State.betweenFrames, state]
  unfold CountsSteps CountsFrames StartTaken State.GapCounts
  rw [between]
  constructor
  · rintro ⟨⟨-, counted, merged⟩, clear⟩
    exact ⟨counted, fun waiting _ => ⟨merged waiting, clear waiting⟩⟩
  · rintro ⟨counted, clear⟩
    have settled := fun waiting => clear waiting (by simp [op])
    exact ⟨⟨runs, counted, fun waiting => (settled waiting).1⟩, fun waiting => (settled waiting).2⟩

/-! ### The stop order and the end of a cut frame (R123, R172) -/

/-- A cut frame's end counts every expiry (R123). -/
theorem gapCounts_cutEnd {s : State} (h : Counted s.eng) : (cutEnd s).GapCounts := by
  obtain ⟨-, pending, merged, gap, -, number⟩ := OperatingStates.cutEnd_eng s
  have last : (cutEnd s).eng.frameInProgress = s.eng.frameInProgress := by simp [cutEnd, leaveCut]
  refine ⟨?_, fun _ _ => ⟨merged, pending⟩⟩
  unfold Counted at h
  rw [number, last, gap, merged, pending, h]
  simp [BitVec.add_assoc]

/-- The scan engine, its timer stopped, is PARKED or cuts the frame (R123). -/
def StopsFrames (s : State) : Prop := s.eng.frameTimer = none ∧ (s.eng.frameState = .parked ∨ s.eng.frameState = .cutting)

/-- The stop order finds the engine in WAITING or SCANNING (R172): it parks, cuts the frame, or ends it as a cut frame. -/
theorem stopScan_cases {s : State} (runs : RunsFrames s) :
    (s.eng.frameState = .waiting ∧ stopScan s = s.setEng { s.eng with frameTimer := none, frameState := .parked }) ∨
    (s.eng.frameState = .scanning ∧ stopScan s = s.setEng { s.eng with frameTimer := none, frameState := .cutting }) ∨
    (s.eng.frameState = .scanning ∧ stopScan s = cutEnd (withdrawScan (s.setEng { s.eng with frameTimer := none }))) := by
  obtain ⟨-, -, waiting | scanning⟩ := runs
  · exact .inl ⟨waiting, (stopScan_stops s).1 waiting⟩
  · by_cases granted : ∃ v, s.arb.grant = .scan v
    · exact .inr (.inl ⟨scanning, (stopScan_stops s).2.1 scanning granted⟩)
    · exact .inr (.inr ⟨scanning, OperatingStates.stopScan_cuts scanning fun v hv => granted ⟨v, hv⟩⟩)

theorem stopsFrames_stopScan {s : State} (runs : RunsFrames s) : StopsFrames (stopScan s) := by
  rcases stopScan_cases runs with ⟨-, parks⟩ | ⟨-, cuts⟩ | ⟨-, ends⟩
  · rw [parks]
    exact ⟨rfl, .inl rfl⟩
  · rw [cuts]
    exact ⟨rfl, .inr rfl⟩
  · rw [ends]
    obtain ⟨parked, -, -, -, timer, -⟩ := OperatingStates.cutEnd_eng (withdrawScan (s.setEng { s.eng with frameTimer := none }))
    exact ⟨by simp [timer], .inl parked⟩

theorem gapCounts_stopScan {s : State} (counts : CountsSteps s) : (stopScan s).GapCounts := by
  obtain ⟨⟨runs, counted, merged⟩, clear⟩ := counts
  rcases stopScan_cases runs with ⟨waiting, parks⟩ | ⟨-, cuts⟩ | ⟨-, ends⟩
  · rw [parks]
    exact ⟨counted, fun _ _ => ⟨merged waiting, clear waiting⟩⟩
  · rw [cuts]
    exact ⟨counted, nofun⟩
  · rw [ends]
    exact gapCounts_cutEnd (by simpa [Counted] using counted)

end Sys2Proof.Machine.ModeSteps
end

section
/-! SUPPORT. 11_operating_states_registers_and_attention.md, proved: the commands that leave the operating state alone, each with
what it keeps of the units. -/

namespace Sys2Proof.Machine.ModeKept

open ModeSteps FrameEvents

/-! ### What a command that leaves the operating state alone keeps (R169, R173, R175) -/

/-- The walker, the converter and the spot unit hold nothing. -/
def AtRest (s : State) : Prop := s.wk.state = .idle ∧ s.arb.Idle ∧ s.spt.state = .empty

/-- The items by which frames are counted and timed stand as they were. -/
def FramesSame (e e' : ScanEngine) : Prop :=
  e'.frameTimer = e.frameTimer ∧ e'.frameState = e.frameState ∧ e'.frameNumber = e.frameNumber ∧
    e'.frameInProgress = e.frameInProgress ∧ e'.startPending = e.startPending ∧ e'.merged = e.merged ∧ e'.gap = e.gap

theorem FramesSame.of_eq {e e' : ScanEngine} (same : e' = e) : FramesSame e e' := by
  subst same
  exact ⟨rfl, rfl, rfl, rfl, rfl, rfl, rfl⟩

theorem gapCounts_of_same {s t : State} (frames : FramesSame s.eng t.eng) (op : t.ctl.op = s.ctl.op) (h : s.GapCounts) :
    t.GapCounts := by
  obtain ⟨-, state, number, last, pending, merged, gap⟩ := frames
  unfold State.GapCounts State.betweenFrames at h ⊢
  rwa [op, state, number, last, pending, merged, gap]

/-- Neither an access on the interconnect, but for a header read, nor the linger timer has anything to end. -/
def Silent (s : State) : Prop := (∀ k, k ≠ .headerRead → s.serving k = false) ∧ s.jrn.lingerTimer = none

/-- What a command that leaves the operating state alone keeps: the items of the frames in every operating state, a walker at
work in RUNNING, units at rest in STOPPED, and with nothing to end everything, as in OFF, LOADING and FAULTED. -/
structure KeepsMode (s t : State) : Prop where
  ctl : t.ctl = s.ctl
  frames : FramesSame s.eng t.eng
  walks : s.ctl.op = .running → s.wk.state ≠ .idle → t.wk.state ≠ .idle
  rests : AtRest s → AtRest t
  silent : AtRest s → Silent s → t = s

/-- A command of which a state at rest takes nothing. -/
theorem KeepsMode.of_still {s t : State} (ctl : t.ctl = s.ctl) (frames : FramesSame s.eng t.eng)
    (walks : s.ctl.op = .running → s.wk.state ≠ .idle → t.wk.state ≠ .idle) (still : AtRest s → t = s) : KeepsMode s t where
  ctl := ctl
  frames := frames
  walks := walks
  rests rest := (still rest).symm ▸ rest
  silent rest _ := still rest

theorem KeepsMode.refl (s : State) : KeepsMode s s :=
  .of_still rfl (.of_eq rfl) (fun _ h => h) fun _ => rfl

theorem atRest_of_unitsAtReset {s : State} (units : s.UnitsAtReset) : AtRest s := by
  obtain ⟨wk, -, arb, -, spt, -⟩ := units
  exact ⟨by rw [wk]; rfl, OperatingStates.idle_of_reset arb, by rw [spt]; rfl⟩

theorem silent_of_port {s : State} (port : ∀ a ∈ s.port, a.kind = .headerRead) (timer : s.jrn.lingerTimer = none) : Silent s := by
  refine ⟨fun k other => ?_, timer⟩
  cases found : s.port with
  | nil => rw [State.serving, found]
  | cons a rest =>
    rw [State.serving_cons found, port a (by simp [found])]
    exact beq_false_of_ne other.symm

theorem silent_of_unitsAtReset {s : State} (units : s.UnitsAtReset) (port : ∀ a ∈ s.port, a.kind = .headerRead) : Silent s := by
  obtain ⟨-, -, -, jrn, -⟩ := units
  exact silent_of_port port (by rw [jrn]; rfl)

namespace KeepsMode

variable {s t : State} (kept : KeepsMode s t)
include kept

theorem gap (h : s.GapCounts) : t.GapCounts := gapCounts_of_same kept.frames (by rw [kept.ctl]) h

theorem mode (h : s.ModeCoherent) : t.ModeCoherent := by
  obtain ⟨timer, state, -⟩ := kept.frames
  unfold State.ModeCoherent at h ⊢
  rw [kept.ctl]
  cases op : s.ctl.op <;> simp only [op] at h ⊢
  case off | loading =>
    obtain ⟨units, port⟩ := h
    rw [kept.silent (atRest_of_unitsAtReset units) (silent_of_unitsAtReset units (by simp [port]))]
    exact ⟨units, port⟩
  case running =>
    obtain ⟨runs, walker, frames⟩ := h
    rw [timer, state]
    exact ⟨runs, kept.walks op walker, frames⟩
  case stopping => rwa [timer, state]
  case stopped =>
    obtain ⟨stops, walker, parked, arb, spt⟩ := h
    obtain ⟨walker', arb', spt'⟩ := kept.rests ⟨walker, arb, spt⟩
    exact ⟨by rw [timer, stops], walker', by rw [state, parked], arb', spt'⟩
  case faulted =>
    obtain ⟨stops, walker, parked, arb, spt, port, writes⟩ := h
    rw [kept.silent ⟨walker, arb, spt⟩ (silent_of_port (by simp [port]) writes.2.1)]
    exact ⟨stops, walker, parked, arb, spt, port, writes⟩

end KeepsMode

/-! ### The walker's accesses (R24 to R26, R18) -/

theorem startLook_idle (s : State) : (startLook s).wk.state ≠ .idle := by simp [startLook, State.walkTo]

theorem enterResting_idle (s : State) : (enterResting s).wk.state ≠ .idle := by
  unfold enterResting
  split
  · exact startLook_idle _
  · simp [State.walkTo]

theorem takeLink_idle (link : Word) (s : State) : (takeLink link s).wk.state ≠ .idle := by
  unfold takeLink
  split
  · exact enterResting_idle _
  split
  · exact enterResting_idle _
  · simp

theorem takeBlock_idle (addr : Word) (block : Vector Word 16) (s : State) : (takeBlock addr block s).wk.state ≠ .idle := by
  unfold takeBlock
  split
  · simp [State.walkTo]
  · exact enterResting_idle _

theorem goOnByClass_idle (h : Held) (s : State) : (goOnByClass h s).wk.state ≠ .idle := by
  unfold goOnByClass
  split
  · exact answer_idle _ _ s
  · split <;> simp [State.walkTo]

theorem keepsMode_linkRead (link : Word) (s : State) : KeepsMode s (linkRead link s) := by
  unfold linkRead
  split
  · rename_i walks
    split
    · refine .of_still ?_ ?_ (fun op _ => ?_) fun rest => ?_
      · split <;> simp
      · split <;> exact .of_eq (by simp)
      · rw [if_neg (by simp [op])]
        exact takeLink_idle link _
      · simp [AtRest, walks] at rest
    · exact .refl s
  · exact .refl s

theorem keepsMode_blockRead (block : Vector Word 16) (s : State) : KeepsMode s (blockRead block s) := by
  unfold blockRead
  split
  · rename_i walks
    split
    · refine .of_still ?_ ?_ (fun op _ => ?_) fun rest => ?_
      · split <;> simp
      · split <;> exact .of_eq (by simp)
      · rw [if_neg (by simp [op])]
        exact takeBlock_idle _ block _
      · simp [AtRest, walks] at rest
    · exact .refl s
  · exact .refl s

theorem keepsMode_takenWritten (s : State) : KeepsMode s (takenWritten s) := by
  unfold takenWritten
  split
  · rename_i walks
    split
    · exact .of_still (by simp) (.of_eq (by simp)) (fun _ _ => goOnByClass_idle _ _) fun rest => by simp [AtRest, walks] at rest
    · exact .refl s
  · exact .refl s

theorem keepsMode_resultWritten (s : State) : KeepsMode s (resultWritten s) := by
  unfold resultWritten
  split
  · rename_i walks
    split
    · exact .of_still (by simp) (.of_eq (by simp)) (fun _ _ => by simp [State.walkTo]) fun rest => by simp [AtRest, walks] at rest
    · exact .refl s
  · exact .refl s

theorem moveOn_idle {h : Held} {s : State} (op : s.ctl.op = .running) : (moveOn h s).wk.state ≠ .idle := by
  rw [moveOn, if_neg (by simp [op])]
  exact startLook_idle _

theorem keepsMode_closedWritten (s : State) : KeepsMode s (closedWritten s) := by
  unfold closedWritten
  split
  · rename_i walks
    split
    · exact .of_still (by simp) (.of_eq (by simp)) (fun op _ => moveOn_idle (by simpa using op)) fun rest => by
        simp [AtRest, walks] at rest
    · exact .refl s
  · exact .refl s

/-! ### The other agents' accesses and the linger timer (R152, R156, R133, R5, R137) -/

/-- A stray completion leaves the state alone. -/
theorem silent_completion {c : Instr} {k : AccessKind} {s t : State} (completes : completedWrite c = some k)
    (other : k ≠ .headerRead) (silent : Silent s) (run : exec c s = .next t) : t = s :=
  Host.Outcome.next.inj (run.symm.trans (MemoryPort.exec_stray (.inl completes) (silent.1 k other)))

theorem acceptWaitingSpot_idle {s : State} (walker : s.wk.state ≠ .idle) : (acceptWaitingSpot s).wk.state ≠ .idle := by
  unfold acceptWaitingSpot
  (repeat' split)
  · exact startLook_idle _
  · exact walker
  · exact walker

theorem spotClosed_idle {s : State} (walker : s.wk.state ≠ .idle) : (spotClosed s).wk.state ≠ .idle := by
  unfold spotClosed
  split
  · exact acceptWaitingSpot_idle (by simpa using walker)
  · exact walker

/-- An EMPTY spot unit has nothing to end. -/
theorem spotClosed_empty {s : State} (empty : s.spt.state = .empty) : spotClosed s = s := by rw [spotClosed, empty]

theorem nextSpotWrite_state (s : State) : (nextSpotWrite s).spt.state = s.spt.state := by
  unfold nextSpotWrite
  split <;> simp

theorem keepsMode_spotWritten (s : State) : KeepsMode s (spotWritten s) where
  ctl := by
    unfold spotWritten
    dsimp only
    (repeat' split) <;> simp
  frames := by
    unfold spotWritten
    dsimp only
    (repeat' split) <;> simp [FramesSame]
  walks _ walker := by
    unfold spotWritten
    dsimp only
    (repeat' split)
    · simpa using spotClosed_idle (s := nextSpotWrite (retire s)) (by simpa using walker)
    · simpa using walker
    · exact walker
    · exact walker
  rests rest := by
    obtain ⟨walker, arb, spt⟩ := rest
    have empty : (nextSpotWrite (retire s)).spt.state = .empty := by simp [nextSpotWrite_state, spt]
    have next : AtRest (nextSpotWrite (retire s)) := ⟨by simpa using walker, by simpa using arb, empty⟩
    unfold spotWritten
    dsimp only
    (repeat' split)
    · rw [spotClosed_empty empty]
      simpa [AtRest] using next
    · simpa [AtRest] using next
    · exact ⟨walker, arb, spt⟩
    · exact ⟨walker, arb, spt⟩
  silent _ silent := silent_completion (c := .spotWriteComplete) rfl (by decide) silent rfl

theorem snapshotDone_idle (total : Nat) {s : State} (walker : s.wk.state ≠ .idle) : (snapshotDone total s).wk.state ≠ .idle := by
  unfold snapshotDone
  split
  · exact answer_idle _ _ s
  · exact walker

/-- A walker in IDLE awaits no snapshot. -/
theorem snapshotDone_of_idle (total : Nat) {s : State} (idle : s.wk.state = .idle) : snapshotDone total s = s := by
  rw [snapshotDone, idle]

theorem keepsMode_snapshotWritten (s : State) : KeepsMode s (snapshotWritten s) where
  ctl := by
    unfold snapshotWritten
    dsimp only
    (repeat' split) <;> simp
  frames := by
    unfold snapshotWritten
    dsimp only
    (repeat' split) <;> simp [FramesSame]
  walks _ walker := by
    unfold snapshotWritten
    dsimp only
    (repeat' split)
    · simpa using snapshotDone_idle _ (s := (nextSpotWrite (retire s)).setSpt _) (by simpa using walker)
    · simpa using walker
    · exact walker
    · exact walker
  rests rest := by
    obtain ⟨walker, arb, spt⟩ := rest
    unfold snapshotWritten
    dsimp only
    (repeat' split)
    · rw [snapshotDone_of_idle _ (by simpa using walker)]
      simpa [AtRest, nextSpotWrite_state] using ⟨walker, arb, spt⟩
    · simpa [AtRest, nextSpotWrite_state] using ⟨walker, arb, spt⟩
    · exact ⟨walker, arb, spt⟩
    · exact ⟨walker, arb, spt⟩
  silent _ silent := silent_completion (c := .snapshotRecordWriteComplete) rfl (by decide) silent rfl

theorem pageClosed_idle (c : Closing) (s : State) : (pageClosed c s).wk.state = .idle ↔ s.wk.state = .idle := by
  unfold pageClosed answerFlush
  dsimp only
  (repeat' split) <;> simp_all [OperatingStates.answer_wk]

theorem keepsMode_journalWritten (s : State) : KeepsMode s (journalWritten s) where
  ctl := by
    unfold journalWritten
    dsimp only
    (repeat' split) <;> simp
  frames := by
    unfold journalWritten
    dsimp only
    (repeat' split) <;> simp [FramesSame]
  walks _ walker := by
    unfold journalWritten
    dsimp only
    (repeat' split) <;> simp [pageClosed_idle, walker]
  rests rest := by
    unfold journalWritten
    dsimp only
    (repeat' split) <;> simpa [AtRest, pageClosed_idle] using rest
  silent _ silent := silent_completion (c := .journalWriteComplete) rfl (by decide) silent rfl

theorem keepsMode_mirrorWritten (s : State) : KeepsMode s (mirrorWritten s) where
  ctl := by
    unfold mirrorWritten
    split <;> simp
  frames := by
    unfold mirrorWritten
    split <;> simp [FramesSame]
  walks _ walker := by
    unfold mirrorWritten
    split <;> simpa using walker
  rests rest := by
    unfold mirrorWritten
    split <;> simpa [AtRest] using rest
  silent _ silent := silent_completion (c := .mirrorWriteComplete) rfl (by decide) silent rfl

theorem keepsMode_lingerExpires (s : State) : KeepsMode s (lingerExpires s) where
  ctl := by simp
  frames := .of_eq (by simp)
  walks _ walker := by simpa using walker
  rests rest := by simpa [AtRest] using rest
  silent _ silent := by rw [lingerExpires, silent.2]

/-! ### The requests and the spot's sub-conversion (R30 to R32, R151) -/

theorem receiveTogether_same (s : State) : receiveTogether s.port.length s = s := receiveTogether_one (Nat.le_succ _)

theorem keepsMode_workingStep {f : Held → Request → Option State} {s : State}
    (done : ∀ h r t, f h r = some t → t.ctl = s.ctl ∧ FramesSame s.eng t.eng ∧ t.wk.state ≠ .idle) :
    KeepsMode s (workingStep f s) := by
  refine .of_still (OperatingStates.workingStep_ctl fun h r t e => (done h r t e).1)
    (workingStep_ind (P := fun x => FramesSame s.eng x.eng) (.of_eq rfl) (fun t n ht => by simpa using ht)
      fun h r t _ e => (done h r t e).2.1)
    (fun _ walker => workingStep_ind (P := fun x => x.wk.state ≠ .idle) walker (fun t n ht => by simpa using ht)
      fun h r t _ e => (done h r t e).2.2) fun ⟨idle, _⟩ => ?_
  simp [workingStep, State.workingRequest, idle]

/-- A boundary kind's command carries out the request that the walker holds, and nothing else. -/
theorem keepsMode_boundaryStep {f : Held → Request → Option State} {s : State}
    (applies : ∀ h r t, f h r = some t → applyBoundary h r s = t) : KeepsMode s (boundaryStep f s) := by
  refine .of_still (OperatingStates.boundaryStep_ctl applies)
    (boundaryStep_ind (P := fun x => FramesSame s.eng x.eng) (.of_eq rfl) (fun t n ht => by simpa using ht)
      (fun _ => .of_eq rfl) fun h r t _ _ e => applies h r t e ▸ by simp [FramesSame])
    (fun _ walker => boundaryStep_ind (P := fun x => x.wk.state ≠ .idle) walker (fun t n ht => by simpa using ht)
      (fun _ => by simpa [reached_idle] using walker)
      fun h r t _ awaits e => applies h r t e ▸ applyBoundary_idle awaits.2.2 s) fun ⟨idle, _⟩ => ?_
  simp [boundaryStep, State.waitingBoundary, WalkerState.unapplied, idle]

theorem keepsMode_spotConversion (count : Half) (s : State) : KeepsMode s (receiveTogether s.port.length (spotConversion count s)) := by
  refine .of_still (by simp) (by simp [FramesSame]) (fun _ walker => by simpa using walker) fun ⟨_, _, empty⟩ => ?_
  have none : spotConversion count s = s := by
    unfold spotConversion
    split <;> simp_all
  rw [none, receiveTogether_same]

theorem applySpot_idle (h : Held) (p : PointId) (m : Nat) (s : State) : (applySpot h p m s).wk.state ≠ .idle := by
  unfold applySpot
  (repeat' split) <;> simp [acceptSpot, anchorAndLook, startLook, State.walkTo, OperatingStates.answer_wk]

theorem applyFlushJournal_idle (h : Held) (s : State) : (applyFlushJournal h s).wk.state ≠ .idle := by
  unfold applyFlushJournal
  (repeat' split) <;> simp [State.walkTo, OperatingStates.answer_wk]

theorem applySetOutputs_idle (h : Held) (lines : BitVec 8) (levels : Vector Bool 8) (s : State) :
    (applySetOutputs h lines levels s).wk.state ≠ .idle := by
  unfold applySetOutputs
  split <;> exact answer_idle _ _ _

theorem applyGivePages_idle (h : Held) (pages : List Word) (s : State) : (applyGivePages h pages s).wk.state ≠ .idle := by
  unfold applyGivePages
  split <;> exact answer_idle _ _ _

/-- The requests that the walker's WORKING hands to their units. -/
theorem exec_working_keepsMode {c : Instr} (s : State)
    (kind : c ∈ [.configOutput, .setOutputs, .givePages, .reclaimPages, .flushJournal, .spot]) :
    ∃ t, exec c s = .next t ∧ KeepsMode s t := by
  simp only [List.mem_cons, List.not_mem_nil, or_false] at kind
  rcases kind with rfl | rfl | rfl | rfl | rfl | rfl <;> refine ⟨_, rfl, keepsMode_workingStep fun h r t e => ?_⟩ <;>
    split at e <;> cases e
  · exact ⟨by simp, .of_eq (by simp), answer_idle _ _ _⟩
  · exact ⟨by simp, .of_eq (by simp), applySetOutputs_idle _ _ _ s⟩
  · exact ⟨by simp, .of_eq (by simp), applyGivePages_idle _ _ s⟩
  · exact ⟨by simp, .of_eq (by simp), answer_idle _ _ _⟩
  · exact ⟨by simp, .of_eq (by simp), applyFlushJournal_idle _ s⟩
  · exact ⟨by simp, by simp [FramesSame], applySpot_idle _ _ _ s⟩

end Sys2Proof.Machine.ModeKept
end

section
/-! SUPPORT. 11_operating_states_registers_and_attention.md, proved: every step keeps what each operating state says of the
control unit and the units (R169, R173, R178), and R117's relation of the frame number to the counts. -/

namespace Sys2Proof.Machine.OperatingModes

open ModeSteps ModeKept FrameEvents

/-- What every step keeps of the operating states and of the gap count. -/
def StaysCoherent (s t : State) : Prop := t.ctl.Coherent ∧ t.ModeCoherent ∧ (s.GapCounts → t.GapCounts)

theorem StaysCoherent.of_kept {s t : State} (coherent : s.ctl.Coherent) (mode : s.ModeCoherent) (kept : KeepsMode s t) :
    StaysCoherent s t :=
  ⟨kept.ctl.symm ▸ coherent, kept.mode mode, kept.gap⟩

/-! ### Writes to the registers that change no operating state (R1, R178, R183 to R185) -/

/-- Of the units and the port nothing has changed; of the control unit, the operating state and, in LOADING, AREA_BASE. -/
structure UnitsSame (s t : State) : Prop where
  op : t.ctl.op = s.ctl.op
  area : s.ctl.op = .loading → t.ctl.areaBase = s.ctl.areaBase
  port : t.port = s.port
  wk : t.wk = s.wk
  eng : t.eng = s.eng
  arb : t.arb = s.arb
  jrn : t.jrn = s.jrn
  spt : t.spt = s.spt
  mir : t.mir = s.mir
  out : t.out = s.out

theorem UnitsSame.of_ctl {s : State} {c : ControlUnit} (op : c.op = s.ctl.op) (area : s.ctl.op = .loading → c.areaBase = s.ctl.areaBase) :
    UnitsSame s (s.setCtl c) :=
  ⟨op, area, rfl, rfl, rfl, rfl, rfl, rfl, rfl, rfl⟩

theorem UnitsSame.staysCoherent {s t : State} (same : UnitsSame s t) (mode : s.ModeCoherent) (coherent : t.ctl.Coherent) :
    StaysCoherent s t := by
  refine ⟨coherent, ?_, gapCounts_of_same (.of_eq same.eng) same.op⟩
  unfold State.ModeCoherent State.UnitsAtReset at mode ⊢
  rw [same.op, same.port, same.wk, same.eng, same.arb, same.jrn, same.spt, same.mir, same.out]
  cases op : s.ctl.op <;> simp only [op] at mode ⊢
  case loading => rwa [same.area op]
  all_goals exact mode

theorem staysCoherent_areaBaseWrite (data : Word) {s : State} (coherent : s.ctl.Coherent) (mode : s.ModeCoherent) :
    StaysCoherent s (areaBaseWrite data s) := by
  unfold areaBaseWrite
  split
  · exact .of_kept coherent mode (.refl s)
  obtain ⟨clear, set, aligned, fault⟩ := coherent
  split
  · rename_i off
    have aligned' : (alignedArea data).toNat % 256 = 0 := by rw [MemoryPort.alignedArea_toNat, Nat.mul_mod_right]
    exact (UnitsSame.of_ctl (c := { s.ctl with areaBase := alignedArea data }) rfl fun op => by simp [off] at op).staysCoherent
      mode ⟨clear, set, aligned', fault⟩
  · exact (UnitsSame.of_ctl rfl fun _ => rfl).staysCoherent mode ⟨clear, set, aligned, fault⟩

section
variable {s : State} (coherent : s.ctl.Coherent) (mode : s.ModeCoherent)
include coherent mode

/-- The attention unit and the read data are no unit's mode. -/
theorem staysCoherent_attention (a : Attention) (w : Word) : StaysCoherent s ((s.setReadData w).setAtn a) :=
  UnitsSame.staysCoherent ⟨rfl, fun _ => rfl, rfl, rfl, rfl, rfl, rfl, rfl, rfl, rfl⟩ mode coherent

theorem staysCoherent_attnEnableWrite (data : Word) : StaysCoherent s (attnEnableWrite data s) := by
  unfold attnEnableWrite
  split
  · exact .of_kept coherent mode (.refl s)
  · exact staysCoherent_attention coherent mode _ s.readData

theorem staysCoherent_attentionRead : StaysCoherent s (attentionRead s) := by
  unfold attentionRead
  split
  · exact staysCoherent_attention coherent mode _ _
  · exact staysCoherent_attention coherent mode s.atn _

theorem staysCoherent_serviceWrite : StaysCoherent s (serviceWrite s) := by
  unfold serviceWrite
  split
  · exact .of_kept coherent mode (.refl s)
  split
  · exact staysCoherent_attention coherent mode _ s.readData
  · exact .of_kept coherent mode (.refl s)

end

/-! ### Resets, and CONTROL writes that change no operating state (R176, R178) -/

theorem modeCoherent_of_reset {s : State} (op : s.ctl.op = .off) (units : s.UnitsAtReset) (port : s.port = []) : s.ModeCoherent := by
  rw [State.ModeCoherent, op]
  exact ⟨units, port⟩

theorem gapCounts_of_reset {s : State} (eng : s.eng = ScanEngine.reset) : s.GapCounts := by
  unfold State.GapCounts
  rw [eng]
  exact ⟨rfl, fun _ _ => ⟨rfl, rfl⟩⟩

theorem coherent_of_off {c : ControlUnit} (op : c.op = .off) (run : c.run = false) (area : c.areaBase.toNat % 256 = 0)
    (kind : c.faultKind = .none) (addr : c.faultAddr = 0) : c.Coherent := by
  simp [ControlUnit.Coherent, op, run, area, kind, addr]

theorem staysCoherent_hardwareReset (low : Bool) (s : State) : StaysCoherent s (hardwareReset low s) :=
  ⟨coherent_of_off rfl rfl rfl rfl rfl, modeCoherent_of_reset rfl (OperatingStates.hardwareReset_unitsAtReset low s) rfl,
    fun _ => gapCounts_of_reset rfl⟩

theorem staysCoherent_softwareReset {s : State} (coherent : s.ctl.Coherent) : StaysCoherent s (softwareReset s) := by
  obtain ⟨-, -, aligned, -⟩ := coherent
  exact ⟨coherent_of_off rfl rfl aligned rfl rfl,
    modeCoherent_of_reset rfl (OperatingStates.softwareReset_unitsAtReset s) rfl, fun _ => gapCounts_of_reset rfl⟩

theorem hearLook_idle {s : State} (walker : s.wk.state ≠ .idle) : (hearLook s).wk.state ≠ .idle := by
  unfold hearLook
  split
  · exact startLook_idle s
  · exact walker
  · exact walker

theorem modeCoherent_running {s : State} (op : s.ctl.op = .running) : s.ModeCoherent ↔ RunsFrames s := by
  rw [State.ModeCoherent, op]
  rfl

theorem modeCoherent_stopping {s : State} (op : s.ctl.op = .stopping) : s.ModeCoherent ↔ StopsFrames s := by
  rw [State.ModeCoherent, op]
  rfl

theorem staysCoherent_acceptControl (look : Bool) {s : State} (coherent : s.ctl.Coherent) (mode : s.ModeCoherent) :
    StaysCoherent s (acceptControl look s) := by
  have ctl := OperatingStates.acceptControl_ctl look s
  by_cases heard : look = true ∧ s.ctl.op = .running
  · obtain ⟨asked, op⟩ := heard
    obtain ⟨timer, walker, frames⟩ := (modeCoherent_running op).1 mode
    have hears : acceptControl look s = hearLook (s.setCtl { s.ctl with refusedWrite := false }) := if_pos ⟨asked, op⟩
    have walks : (acceptControl look s).wk.state ≠ .idle := hears ▸ hearLook_idle walker
    refine ⟨by rw [ctl]; exact coherent, (modeCoherent_running (by rw [ctl]; exact op)).2 ⟨?_, walks, ?_⟩, ?_⟩
    · simpa using timer
    · simpa using frames
    · exact gapCounts_of_same (.of_eq (by simp)) (by rw [ctl])
  · rw [acceptControl, if_neg heard]
    exact (UnitsSame.of_ctl rfl fun _ => rfl).staysCoherent mode coherent

/-! ### CONTROL writes that change RUN (R170, R172, R174) -/

theorem staysCoherent_startLoading {s : State} (op : s.ctl.op = .off) (coherent : s.ctl.Coherent) (mode : s.ModeCoherent) :
    StaysCoherent s (startLoading s) := by
  rw [State.ModeCoherent, op] at mode
  obtain ⟨units, port⟩ := mode
  obtain ⟨-, -, aligned, kind, addr⟩ := coherent
  refine ⟨?_, ?_, fun _ => gapCounts_of_reset units.2.1⟩
  · have none : s.ctl.faultKind = .none := by simpa [op] using kind
    simpa [ControlUnit.Coherent, startLoading, aligned, none] using addr (by simp [op])
  · rw [OperatingStates.startLoading_eq, port]
    exact ⟨units, rfl⟩

theorem stopOrder_frames (s : State) :
    FramesSame (stopScan (OperatingStates.stopping s)).eng (stopOrder s).eng := by
  simp [FramesSame, OperatingStates.stopOrder_eq]

/-- The stop order leaves STOPPING, whatever it leaves of the frame. -/
theorem stopOrder_ctl (s : State) : (stopOrder s).ctl = { s.ctl with op := .stopping, run := false, refusedWrite := false } := by
  simp [stopOrder]

theorem gapCounts_stopOrder {s : State} (runs : RunsFrames s) (op : s.ctl.op = .running) (counts : s.GapCounts) :
    (stopOrder s).GapCounts :=
  have steps : CountsSteps s := (countsSteps_iff runs op).2 counts
  gapCounts_of_same (stopOrder_frames s) (by simp [stopOrder_ctl, OperatingStates.stopping])
    (gapCounts_stopScan (s := OperatingStates.stopping s) steps)

theorem stopsFrames_stopOrder {s : State} (runs : RunsFrames s) : StopsFrames (stopOrder s) := by
  obtain ⟨timer, state, -⟩ := stopOrder_frames s
  have stops : StopsFrames (stopScan (OperatingStates.stopping s)) := stopsFrames_stopScan (s := OperatingStates.stopping s) runs
  unfold StopsFrames at stops ⊢
  rwa [timer, state]

theorem staysCoherent_stopOrder {s : State} (op : s.ctl.op = .running) (coherent : s.ctl.Coherent) (mode : s.ModeCoherent) :
    StaysCoherent s (stopOrder s) := by
  have runs := (modeCoherent_running op).1 mode
  refine ⟨?_, (modeCoherent_stopping (by rw [stopOrder_ctl])).2 (stopsFrames_stopOrder runs), gapCounts_stopOrder runs op⟩
  obtain ⟨-, -, aligned, kind, addr⟩ := coherent
  have none : s.ctl.faultKind = .none := by simpa [op] using kind
  simpa [ControlUnit.Coherent, stopOrder_ctl, aligned, none] using addr (by simp [op])

theorem staysCoherent_resumeRunning {s : State} (op : s.ctl.op = .stopped) (coherent : s.ctl.Coherent) (mode : s.ModeCoherent) :
    StaysCoherent s (resumeRunning s) := by
  rw [State.ModeCoherent, op] at mode
  obtain ⟨-, -, parked, -⟩ := mode
  obtain ⟨-, -, aligned, kind, addr⟩ := coherent
  rw [OperatingStates.resumeRunning_eq]
  refine ⟨?_, (modeCoherent_running rfl).2 ⟨rfl, nofun, .inl rfl⟩, fun counts => ⟨counts.1, fun _ _ => ?_⟩⟩
  · have none : s.ctl.faultKind = .none := by simpa [op] using kind
    simpa [ControlUnit.Coherent, aligned, none] using addr (by simp [op])
  · exact counts.2 (by simp [State.betweenFrames, parked]) (by simp [op])

/-- An order of receipt changes the port and the free values alone, of which RUNNING and STOPPING say nothing. -/
theorem StaysCoherent.received {s t : State} (stays : StaysCoherent s t) (n : Nat)
    (op : t.ctl.op = .running ∨ t.ctl.op = .stopping) : StaysCoherent s (receiveTogether n t) := by
  obtain ⟨coherent, mode, gap⟩ := stays
  refine ⟨by simpa using coherent, ?_, fun h => gapCounts_of_same (.of_eq (by simp)) (by simp) (gap h)⟩
  unfold State.ModeCoherent at mode ⊢
  rcases op with op | op <;> simpa [op] using mode

theorem staysCoherent_changeRun {s : State} (coherent : s.ctl.Coherent) (mode : s.ModeCoherent) :
    StaysCoherent s (receiveTogether s.port.length (changeRun s)) := by
  have refused (op : s.ctl.op = .loading ∨ s.ctl.op = .stopping ∨ s.ctl.op = .faulted) :
      StaysCoherent s (receiveTogether s.port.length (changeRun s)) := by
    have received : receiveTogether s.port.length (s.setCtl { s.ctl with refusedWrite := true }) = _ :=
      receiveTogether_one (Nat.le_succ _)
    rw [OperatingStates.changeRun_refused op, received]
    exact (UnitsSame.of_ctl (c := { s.ctl with refusedWrite := true }) rfl fun _ => rfl).staysCoherent mode coherent
  cases op : s.ctl.op with
  | off =>
    rw [OperatingStates.changeRun_off op, receiveTogether_one (by simp [OperatingStates.startLoading_eq])]
    exact staysCoherent_startLoading op coherent mode
  | running =>
    rw [OperatingStates.changeRun_running op]
    exact (staysCoherent_stopOrder op coherent mode).received _ (.inr (by rw [stopOrder_ctl]))
  | stopped =>
    rw [OperatingStates.changeRun_stopped op]
    exact (staysCoherent_resumeRunning op coherent mode).received _ (.inl (by rw [OperatingStates.resumeRunning_eq]; rfl))
  | loading => exact refused (.inl op)
  | stopping => exact refused (.inr (.inl op))
  | faulted => exact refused (.inr (.inr op))

theorem staysCoherent_controlWrite (data : Word) {s : State} (coherent : s.ctl.Coherent) (mode : s.ModeCoherent) :
    StaysCoherent s (controlWrite data s) := by
  unfold controlWrite
  split
  · exact .of_kept coherent mode (.refl s)
  split
  · exact staysCoherent_softwareReset coherent
  split
  · exact staysCoherent_acceptControl _ coherent mode
  · exact staysCoherent_changeRun coherent mode

/-! ### The header read and the entry to STOPPED (R2, R170, R171, R173) -/

theorem staysCoherent_headerRead (half : Vector Word 8) {s : State} (coherent : s.ctl.Coherent) (mode : s.ModeCoherent) :
    StaysCoherent s (headerRead half s) := by
  unfold headerRead
  split
  · rename_i loads
    have op := loads.2
    rw [State.ModeCoherent, op] at mode
    obtain ⟨units, port⟩ := mode
    obtain ⟨-, set, aligned, kind, addr⟩ := coherent
    have run := set (.inl op)
    have none : s.ctl.faultKind = .none := by simpa [op] using kind
    have zero := addr (by simp [op])
    rw [RequestChain.retire_read port]
    have eng := units.2.1
    split
    · refine ⟨?_, (modeCoherent_running rfl).2 ⟨rfl, nofun, .inl rfl⟩, fun _ => ?_⟩
      · simp [ControlUnit.Coherent, enterRunning, aligned, none, zero, run]
      · simp [State.GapCounts, enterRunning, eng, ScanEngine.reset]
    · exact ⟨coherent_of_off rfl rfl aligned none zero, modeCoherent_of_reset rfl units rfl, fun _ => gapCounts_of_reset eng⟩
  · exact .of_kept coherent mode (.refl s)

theorem staysCoherent_enterStopped {s : State} (coherent : s.ctl.Coherent) (mode : s.ModeCoherent) :
    StaysCoherent s (enterStopped s) := by
  by_cases enters : s.ctl.op = .stopping ∧ s.settled = true
  · obtain ⟨op, settled⟩ := enters
    obtain ⟨walker, -, parked, arb, spt, -⟩ := (OperatingStates.settled_iff s).1 settled
    obtain ⟨timer, -⟩ := (modeCoherent_stopping op).1 mode
    obtain ⟨clear, -, aligned, kind, addr⟩ := coherent
    have none : s.ctl.faultKind = .none := by simpa [op] using kind
    rw [OperatingStates.enterStopped_settled op settled]
    refine ⟨?_, ?_, fun counts => ⟨counts.1, fun between _ => counts.2 between (by simp [op])⟩⟩
    · simp [ControlUnit.Coherent, clear, op, aligned, none, addr]
    · simp only [State.ModeCoherent, issueImage_keeps, State.setCtl_ctl]
      exact ⟨timer, walker, parked, arb, spt⟩
  · rw [enterStopped, if_neg enters]
    exact .of_kept coherent mode (.refl s)

/-! ### Events of the scan engine (R112, R42, R123) -/

/-- What each operating state says of the scan engine: it runs frames in RUNNING, and its timer is stopped in every other. -/
def EngineMode (s : State) : Prop := (s.ctl.op = .running → RunsFrames s) ∧ (s.ctl.op ≠ .running → StopsFrames s)

theorem engineMode_of_mode {s : State} (mode : s.ModeCoherent) : EngineMode s := by
  have stopped (eng : s.eng = ScanEngine.reset) : StopsFrames s := by
    rw [StopsFrames, eng]
    exact ⟨rfl, .inl rfl⟩
  unfold State.ModeCoherent at mode
  cases op : s.ctl.op <;> simp only [op] at mode
  case off | loading =>
    obtain ⟨⟨-, eng, -⟩, -⟩ := mode
    exact ⟨fun run => by simp [op] at run, fun _ => stopped eng⟩
  case running => exact ⟨fun _ => mode, fun other => absurd op other⟩
  case stopping => exact ⟨fun run => by simp [op] at run, fun _ => mode⟩
  case stopped | faulted =>
    obtain ⟨timer, -, parked, -⟩ := mode
    exact ⟨fun run => by simp [op] at run, fun _ => ⟨timer, .inl parked⟩⟩

/-- A conversion that was granted before the stop order ends the cut frame, or leaves the engine PARKED (R123). -/
theorem stopped_scanConversion (count : Half) (ends : List EndExpiries) {s : State} (stops : StopsFrames s) :
    StopsFrames (scanConversion count ends s) ∧ (s.GapCounts → (scanConversion count ends s).GapCounts) := by
  unfold scanConversion
  dsimp only
  split
  · rename_i p _ _
    have released : StopsFrames (releaseConverter (measurePoint p count s)) := by simpa [StopsFrames] using stops
    have counted : s.GapCounts → (releaseConverter (measurePoint p count s)).GapCounts :=
      gapCounts_of_same (by simp [FramesSame]) (by simp)
    generalize releaseConverter (measurePoint p count s) = u at released counted ⊢
    split
    · rename_i scanning
      obtain ⟨-, state⟩ := released
      simp [scanning] at state
    · obtain ⟨parked, -, -, -, timer, -⟩ := OperatingStates.cutEnd_eng u
      exact ⟨⟨timer.trans released.1, .inl parked⟩, fun counts => gapCounts_cutEnd (counted counts).1⟩
    · exact ⟨released, counted⟩
    · exact ⟨released, counted⟩
  · exact ⟨stops, id⟩

/-- What both events of the scan engine keep of it and of the gap count. -/
def KeepsEngine (s t : State) : Prop :=
  (s.ctl.op = .running → RunsFrames t) ∧ (s.ctl.op ≠ .running → StopsFrames t) ∧ (s.GapCounts → t.GapCounts)

theorem keepsEngine_running {s t : State} (op : s.ctl.op = .running) (same : t.ctl = s.ctl) (runs : RunsFrames s)
    (after : RunsFrames t) (counts : CountsSteps s → CountsSteps t) : KeepsEngine s t :=
  ⟨fun _ => after, fun other => absurd op other, fun gap =>
    (countsSteps_iff after (by rw [same, op])).1 (counts ((countsSteps_iff runs op).2 gap))⟩

theorem keepsEngine_frameExpiry (ends : List EndExpiries) {s : State} (mode : EngineMode s) : KeepsEngine s (frameExpiry ends s) := by
  by_cases op : s.ctl.op = .running
  · have runs := mode.1 op
    exact keepsEngine_running op (by simp) runs (runsFrames_kept.frameExpiry runs ends) (countsSteps_frameExpiry ends)
  · have stops := mode.2 op
    rw [FrameTiming.frameExpiry_stopped stops.1]
    exact ⟨fun run => absurd run op, fun _ => stops, id⟩

theorem keepsEngine_scanConversion (count : Half) (ends : List EndExpiries) {s : State} (mode : EngineMode s) :
    KeepsEngine s (scanConversion count ends s) := by
  by_cases op : s.ctl.op = .running
  · have runs := mode.1 op
    exact keepsEngine_running op (by simp) runs (runsFrames_scanConversion count ends runs) (countsSteps_scanConversion count ends)
  · exact ⟨fun run => absurd run op, fun _ => (stopped_scanConversion count ends (mode.2 op)).1,
      (stopped_scanConversion count ends (mode.2 op)).2⟩

/-- The mirror writer's part in an event and the order of receipt leave the engine alone. -/
theorem keepsEngine_scanEvent {f : State → State} {s : State} (keeps : KeepsEngine s.eventBegun (f s.eventBegun)) :
    KeepsEngine s (scanEvent f s) := by
  obtain ⟨runs, stops, gap⟩ := keeps
  refine ⟨fun op => ?_, fun op => ?_, fun h => gapCounts_of_same (.of_eq (scanEvent_units s f).2.2.1) ?_ (gap h)⟩
  · simpa [RunsFrames] using runs op
  · simpa [StopsFrames] using stops op
  · rw [(scanEvent_units s f).1]

/-- An event that leaves the control unit alone and that finds nothing to do outside RUNNING and STOPPING. -/
theorem staysCoherent_scanEvent {f : State → State} {s : State} (coherent : s.ctl.Coherent) (mode : s.ModeCoherent)
    (ctl : (f s.eventBegun).ctl = s.ctl) (keeps : KeepsEngine s.eventBegun (f s.eventBegun))
    (still : s.eng.frameTimer = none → s.arb.Idle → f s.eventBegun = s.eventBegun) : StaysCoherent s (scanEvent f s) := by
  have same : (scanEvent f s).ctl = s.ctl := (scanEvent_units s f).1.trans ctl
  obtain ⟨runs, stops, gap⟩ := keepsEngine_scanEvent keeps
  have nothing (timer : s.eng.frameTimer = none) (idle : s.arb.Idle) : StaysCoherent s (scanEvent f s) := by
    rw [FrameTiming.scanEvent_engine (e := s.eng) (still timer idle)]
    exact .of_kept coherent mode (.refl s)
  have frames := mode
  unfold State.ModeCoherent at frames
  cases op : s.ctl.op <;> simp only [op] at frames
  case running => exact ⟨same ▸ coherent, (modeCoherent_running (by rw [same, op])).2 (runs op), gap⟩
  case stopping => exact ⟨same ▸ coherent, (modeCoherent_stopping (by rw [same, op])).2 (stops (by simp [op])), gap⟩
  case off | loading =>
    obtain ⟨⟨-, eng, arb, -⟩, -⟩ := frames
    exact nothing (by rw [eng]; rfl) (OperatingStates.idle_of_reset arb)
  case stopped | faulted =>
    obtain ⟨timer, -, -, arb, -⟩ := frames
    exact nothing timer arb

theorem staysCoherent_frameExpiry (ends : List EndExpiries) {s : State} (coherent : s.ctl.Coherent) (mode : s.ModeCoherent) :
    StaysCoherent s (scanEvent (frameExpiry ends) s) :=
  have engine := engineMode_of_mode mode
  staysCoherent_scanEvent coherent mode (by simp) (keepsEngine_frameExpiry (s := s.eventBegun) ends engine)
    fun timer _ => FrameTiming.frameExpiry_stopped (s := s.eventBegun) timer ends

/-- With the converter FREE there is no conversion to complete (R48). -/
theorem scanConversion_ungranted {s : State} (idle : s.arb.Idle) (count : Half) (ends : List EndExpiries) :
    scanConversion count ends s = s := by
  simp [scanConversion, idle.1]

theorem staysCoherent_scanConversion (count : Half) (ends : List EndExpiries) {s : State} (coherent : s.ctl.Coherent)
    (mode : s.ModeCoherent) : StaysCoherent s (scanEvent (scanConversion count ends) s) :=
  have engine := engineMode_of_mode mode
  staysCoherent_scanEvent coherent mode (by simp) (keepsEngine_scanConversion (s := s.eventBegun) count ends engine)
    fun _ idle => scanConversion_ungranted (s := s.eventBegun) idle count ends

/-! ### Memory faults (R12, R166, R175) -/

/-- An event that comes before the fault keeps the relation of the counts. -/
theorem gapCounts_carryOut (e : ScanEvent) {s : State} (mode : EngineMode s) (counts : s.GapCounts) : (carryOut e s).GapCounts := by
  cases e with
  | scanConversion count ends =>
    exact (keepsEngine_scanEvent (keepsEngine_scanConversion (s := s.eventBegun) count ends mode)).2.2 counts
  | frameExpiry ends => exact (keepsEngine_scanEvent (keepsEngine_frameExpiry (s := s.eventBegun) ends mode)).2.2 counts
  | boundary =>
    rw [carryOut]
    split
    · exact gapCounts_of_same (by simp [FramesSame]) (by simp) counts
    · exact counts
  | stopOrder =>
    rw [carryOut]
    split
    · rename_i op
      exact gapCounts_stopOrder (mode.1 op) op counts
    · exact counts

theorem carryOut_areaBase (e : ScanEvent) (s : State) : (carryOut e s).ctl.areaBase = s.ctl.areaBase := by
  cases e with
  | scanConversion | frameExpiry => simp [carryOut]
  | boundary | stopOrder =>
    rw [carryOut]
    split <;> simp [stopOrder_ctl]

/-- Every unit stops at once, and the count goes on from where the event before the fault left it. -/
theorem staysCoherent_memoryFault {kind : FaultKind} (named : kind ≠ .none) (cause : Cause) {s x : State} {a : Access}
    {rest : List Access} (port : x.port = a :: rest) (coherent : s.ctl.Coherent) (area : x.ctl.areaBase = s.ctl.areaBase)
    (gap : s.GapCounts → x.GapCounts) : StaysCoherent s (memoryFault kind cause x) := by
  have ctl := OperatingStates.memoryFault_ctl port kind cause
  obtain ⟨-, -, aligned, -⟩ := coherent
  refine ⟨?_, ?_, fun counts => ⟨?_, fun _ running => ?_⟩⟩
  · simp [ctl, ControlUnit.Coherent, area, aligned, named]
  · rw [State.ModeCoherent, ctl]
    simp only [memoryFault, port]
    exact ⟨rfl, rfl, rfl, ⟨rfl, rfl, rfl⟩, rfl, abandonAccesses_port _ _, rfl, rfl, rfl, rfl⟩
  · simpa [memoryFault, port, faultUnits] using (gap counts).1
  · exact absurd (by rw [ctl]) running

theorem staysCoherent_racedFault {kind : FaultKind} (named : kind ≠ .none) (cause : Cause) (race : Option FaultRace) {s : State}
    (coherent : s.ctl.Coherent) (mode : s.ModeCoherent) : StaysCoherent s (racedFault kind cause race s) := by
  unfold racedFault
  split
  · exact .of_kept coherent mode (.refl s)
  · rename_i port
    exact staysCoherent_memoryFault named cause port coherent rfl id
  · rename_i r port
    have engine := engineMode_of_mode mode
    exact staysCoherent_memoryFault named cause port coherent (carryOut_areaBase r.event _)
      (gapCounts_carryOut r.event (s := s.setOut { s.out with entryAfter := some r.taken }) engine)

/-! ### Every step -/

/-- Every command keeps what the operating states say: by its part of the control unit or of the units. -/
theorem exec_staysCoherent (c : Instr) {s : State} (coherent : s.ctl.Coherent) (mode : s.ModeCoherent) :
    ∃ t, exec c s = .next t ∧ StaysCoherent s t := by
  have kept {t : State} (keeps : KeepsMode s t) : StaysCoherent s t := .of_kept coherent mode keeps
  cases c
  case hardwareReset low => exact ⟨_, rfl, staysCoherent_hardwareReset low s⟩
  case softwareReset data | runSet data | runClear data | resume data | look data | acceptedControlWrite data =>
    exact ⟨_, rfl, staysCoherent_controlWrite data coherent mode⟩
  case areaBaseWrite data => exact ⟨_, rfl, staysCoherent_areaBaseWrite data coherent mode⟩
  case attnEnableWrite data => exact ⟨_, rfl, staysCoherent_attnEnableWrite coherent mode data⟩
  case attentionRead => exact ⟨_, rfl, staysCoherent_attentionRead coherent mode⟩
  case serviceWrite => exact ⟨_, rfl, staysCoherent_serviceWrite coherent mode⟩
  case ignoredRegisterWrite | lateResponse => exact ⟨_, rfl, kept (.refl s)⟩
  case resetnRise => exact ⟨_, rfl, (UnitsSame.of_ctl rfl fun _ => rfl).staysCoherent mode coherent⟩
  case headerReadComplete half => exact ⟨_, rfl, staysCoherent_headerRead half coherent mode⟩
  case errorResponse race | responseLimitExpiry race =>
    exact ⟨_, rfl, staysCoherent_racedFault (by decide) _ race coherent mode⟩
  case enterStopped => exact ⟨_, rfl, staysCoherent_enterStopped coherent mode⟩
  case frameTimerExpiry ends => exact ⟨_, rfl, staysCoherent_frameExpiry ends coherent mode⟩
  case scanConversionComplete count ends => exact ⟨_, rfl, staysCoherent_scanConversion count ends coherent mode⟩
  case linkReadComplete link => exact ⟨_, rfl, kept (keepsMode_linkRead link s)⟩
  case blockReadComplete block => exact ⟨_, rfl, kept (keepsMode_blockRead block s)⟩
  case takenWriteComplete => exact ⟨_, rfl, kept (keepsMode_takenWritten s)⟩
  case resultWriteComplete => exact ⟨_, rfl, kept (keepsMode_resultWritten s)⟩
  case closedWriteComplete => exact ⟨_, rfl, kept (keepsMode_closedWritten s)⟩
  case spotWriteComplete => exact ⟨_, rfl, kept (keepsMode_spotWritten s)⟩
  case snapshotRecordWriteComplete => exact ⟨_, rfl, kept (keepsMode_snapshotWritten s)⟩
  case journalWriteComplete => exact ⟨_, rfl, kept (keepsMode_journalWritten s)⟩
  case mirrorWriteComplete => exact ⟨_, rfl, kept (keepsMode_mirrorWritten s)⟩
  case lingerExpiry => exact ⟨_, rfl, kept (keepsMode_lingerExpires s)⟩
  case spotSubconversionComplete count => exact ⟨_, rfl, kept (keepsMode_spotConversion count s)⟩
  case configOutput | setOutputs | givePages | reclaimPages | flushJournal | spot =>
    exact (exec_working_keepsMode s (by simp)).imp fun _ => And.imp_right kept
  case configPoint | releasePoint | configGroup | setTiming | recalibrate | reseed | snapshot | mark =>
    refine ⟨_, rfl, kept (keepsMode_boundaryStep fun h r t e => ?_)⟩
    split at e <;> cases e
    rfl

/-- Settles O54: the idle step keeps all, and every other step is a command's. -/
theorem modesStayCoherent : Obligations.ModesStayCoherent := by
  intro s t coherent mode run
  cases queue : s.pending with
  | nil =>
    rw [Steps.step_idle queue] at run
    cases run
    exact ⟨coherent, mode, id⟩
  | cons c rest =>
    obtain ⟨u, runs, stays⟩ := exec_staysCoherent c (s := s.setPending rest) coherent mode
    rw [Steps.step_front queue, runs] at run
    cases run
    exact stays

end Sys2Proof.Machine.OperatingModes
end

section
/-! SUPPORT. 01_the_exchange_area_and_the_memory_port.md, proved: what each unit's operations do to the accesses that the four
agents have in the port (R7, R9). -/

namespace Sys2Proof.Machine.PortAgents

open FrameEvents

/-! ### The accesses in the port, agent by agent (R7, R9) -/

/-- The access that an agent waits for, if any, by its own part of the state. -/
def expects (s : State) : Agent → List Access
  | .walker => s.walkerAccess
  | .journal =>
    match s.jrn.writes with
    | [] => []
    | w :: _ => [{ kind := .journalWrite, addr := w.addr, data := w.data }]
  | .spot =>
    match s.spt.writes with
    | [] => []
    | w :: _ => [{ kind := w.kind.access, addr := w.addr, data := w.data }]
  | .mirror =>
    match s.mir.writing with
    | none => []
    | some w => [{ kind := .mirrorWrite, addr := s.ctl.areaBase + 32, data := w.image.words }]

/-- Outside LOADING, each agent has exactly the access it waits for in the port. -/
def Served (s : State) : Prop := s.ctl.op ≠ .loading ∧ ∀ g, s.accessesOf g = expects s g

/-- Outside LOADING, one agent has no access in the port, and each other agent exactly the one it waits for. -/
def FreeFor (g : Agent) (s : State) : Prop :=
  s.ctl.op ≠ .loading ∧ s.accessesOf g = [] ∧ ∀ g', g' ≠ g → s.accessesOf g' = expects s g'

theorem forall_agent {P : Agent → Prop} : (∀ g, P g) ↔ P .walker ∧ P .journal ∧ P .spot ∧ P .mirror :=
  ⟨fun h => ⟨h _, h _, h _, h _⟩, fun ⟨hw, hj, hs, hm⟩ g => by cases g <;> assumption⟩

theorem portOk_iff (s : State) : s.PortOk ↔ s.mir.during = .between ∧ ∀ g, s.accessesOf g = expects s g :=
  and_congr_right fun _ => (forall_agent (P := fun g => s.accessesOf g = expects s g)).symm

theorem accessesOf_congr {s t : State} (port : t.port = s.port) (g : Agent) : t.accessesOf g = s.accessesOf g := by
  rw [State.accessesOf, port, State.accessesOf]

theorem accessesOf_issue (k : AccessKind) (addr : Word) (data : List Word) (s : State) (g : Agent) :
    (issue k addr data s).accessesOf g =
      s.accessesOf g ++ if k.agent = g then [{ kind := k, addr := addr, data := data }] else [] := by
  by_cases same : k.agent = g <;> simp [State.accessesOf, issue, same]

/-- Issuing an access changes the port alone. -/
theorem expects_setPort (l : List Access) (s : State) (g : Agent) : expects (s.setPort l) g = expects s g := by
  cases g <;> rfl

section
variable {s t : State} {g : Agent}

theorem Served.congr (served : Served s) (op : t.ctl.op ≠ .loading) (port : t.port = s.port)
    (same : ∀ g, expects t g = expects s g) : Served t :=
  ⟨op, fun g => by rw [accessesOf_congr port, same, served.2]⟩

theorem FreeFor.congr (free : FreeFor g s) (op : t.ctl.op ≠ .loading) (port : t.port = s.port)
    (same : ∀ g', g' ≠ g → expects t g' = expects s g') : FreeFor g t := by
  obtain ⟨-, none, others⟩ := free
  exact ⟨op, by rw [accessesOf_congr port, none], fun g' ne => by rw [accessesOf_congr port, same g' ne, others g' ne]⟩

theorem Served.free (served : Served s) (waits : expects s g = []) : FreeFor g s :=
  ⟨served.1, (served.2 g).trans waits, fun g' _ => served.2 g'⟩

theorem FreeFor.settles (free : FreeFor g s) (waits : expects s g = []) : Served s := by
  obtain ⟨op, none, others⟩ := free
  refine ⟨op, fun g' => ?_⟩
  by_cases same : g' = g
  · rw [same, none, waits]
  · exact others g' same

/-- An agent that has no access in the port issues the one that it waits for. -/
theorem FreeFor.issues {k : AccessKind} {addr : Word} {data : List Word} (free : FreeFor k.agent s)
    (waits : expects s k.agent = [{ kind := k, addr := addr, data := data }]) : Served (issue k addr data s) := by
  obtain ⟨op, none, others⟩ := free
  refine ⟨op, fun g' => ?_⟩
  rw [accessesOf_issue, issue, expects_setPort]
  by_cases same : k.agent = g'
  · rw [if_pos same, ← same, none, waits, List.nil_append]
  · rw [if_neg same, List.append_nil, others g' (Ne.symm same)]

end

/-- An agent waits for one access at most (R7). -/
theorem expects_length (s : State) (g : Agent) : (expects s g).length ≤ 1 := by
  cases g <;> simp only [expects]
  · unfold State.walkerAccess
    (repeat' split) <;> simp
  all_goals split <;> simp

theorem eq_of_perm_short {l m : List Access} (perm : l.Perm m) (short : m.length ≤ 1) : l = m := by
  match m, short with
  | [], _ => exact perm.eq_nil
  | [a], _ => exact List.perm_singleton.1 perm

/-- The order of the accesses in the port is no agent's. -/
theorem accessesOf_perm {s t : State} {g : Agent} (perm : t.port.Perm s.port) (served : s.accessesOf g = expects s g) :
    t.accessesOf g = s.accessesOf g := by
  have short := expects_length s g
  rw [← served] at short
  exact eq_of_perm_short (perm.filter _) short

theorem Served.perm {s t : State} (served : Served s) (op : t.ctl.op ≠ .loading) (perm : t.port.Perm s.port)
    (same : ∀ g, expects t g = expects s g) : Served t :=
  ⟨op, fun g => by rw [accessesOf_perm perm (served.2 g), served.2, same]⟩

theorem expects_receiveTogether (n : Nat) (s : State) (g : Agent) : expects (receiveTogether n s) g = expects s g := by
  cases g <;> rfl

theorem served_receiveTogether {s : State} (served : Served s) (n : Nat) : Served (receiveTogether n s) :=
  served.perm served.1 (receiveTogether_perm n s) (expects_receiveTogether n s)

theorem portOk_receiveTogether {s : State} (ok : s.PortOk) (n : Nat) : (receiveTogether n s).PortOk := by
  obtain ⟨during, served⟩ := (portOk_iff s).1 ok
  refine (portOk_iff _).2 ⟨during, fun g => ?_⟩
  rw [accessesOf_perm (receiveTogether_perm n s) (served g), served, expects_receiveTogether]

/-- The access on the interconnect is the one that its agent waited for, and the port holds no other of that agent. -/
theorem retire_free {s : State} {k : AccessKind} (served : Served s) (serving : s.serving k = true) : FreeFor k.agent (retire s) := by
  cases port : s.port with
  | nil => simp [State.serving, port] at serving
  | cons a rest =>
    rw [State.serving_cons port, beq_iff_eq] at serving
    subst serving
    rw [retire_cons port]
    have split (g : Agent) : s.accessesOf g = (if a.kind.agent = g then [a] else []) ++ rest.filter (fun x => x.kind.agent = g) := by
      rw [State.accessesOf, port, List.filter_cons]
      simp only [decide_eq_true_eq]
      split <;> rfl
    refine ⟨served.1, ?_, fun g ne => ?_⟩
    · have short := expects_length s a.kind.agent
      rw [← served.2, split, if_pos rfl] at short
      exact List.length_eq_zero_iff.1 (by simpa [State.accessesOf] using short)
    · have other := split g
      rw [if_neg (Ne.symm ne), served.2] at other
      refine Eq.trans other.symm ?_
      cases g <;> rfl

/-! ### What an operation that keeps the agents' parts keeps -/

/-- The port and the parts by which the agents wait stand as they were. -/
structure PartsSame (s t : State) : Prop where
  port : t.port = s.port
  ctl : t.ctl = s.ctl
  wk : t.wk = s.wk
  jrn : t.jrn.writes = s.jrn.writes
  spt : t.spt.writes = s.spt.writes
  mir : t.mir.writing = s.mir.writing

theorem PartsSame.expects {s t : State} (same : PartsSame s t) (g : Agent) : expects t g = expects s g := by
  cases g <;> simp only [PortAgents.expects, State.walkerAccess, same.ctl, same.wk, same.jrn, same.spt, same.mir]

theorem Served.kept {s t : State} (served : Served s) (same : PartsSame s t) : Served t :=
  served.congr (by rw [same.ctl]; exact served.1) same.port same.expects

/-! ### The walker (R22 to R26, R30) -/

section
variable {s : State}

/-- The walker's own part is no other agent's. -/
theorem FreeFor.setWk (free : FreeFor .walker s) (w : Walker) : FreeFor .walker (s.setWk w) :=
  free.congr free.1 rfl fun g ne => by cases g <;> trivial

/-- The states of the walker in which it waits for no access. -/
def Waitless (w : WalkerState) : Prop :=
  match w with
  | .fetchLink | .fetchBlock _ | .fetchTaken _ | .closingResult _ _ | .closingStatus _ _ => False
  | _ => True

theorem expects_waitless (op : s.ctl.op ≠ .loading) (waitless : Waitless s.wk.state) : expects s .walker = [] := by
  rw [expects, State.walkerAccess, if_neg op]
  cases state : s.wk.state <;> simp [Waitless, state] at waitless ⊢

theorem Served.walkerFree (served : Served s) (waitless : Waitless s.wk.state) : FreeFor .walker s :=
  served.free (expects_waitless served.1 waitless)

theorem FreeFor.walks (free : FreeFor .walker s) {w : Walker} (waitless : Waitless w.state) : Served (s.setWk w) :=
  (free.setWk w).settles (expects_waitless free.1 waitless)

theorem FreeFor.walksTo (free : FreeFor .walker s) {w : WalkerState} (waitless : Waitless w) : Served (s.walkTo w) :=
  free.walks waitless

theorem served_startLook (free : FreeFor .walker s) : Served (startLook s) :=
  FreeFor.issues (k := .linkRead) (free.setWk _) (if_neg free.1)

theorem served_answer (h : Held) (a : Answer) (free : FreeFor .walker s) : Served (answer h a s) :=
  FreeFor.issues (k := .resultWrite) (free.setWk _) (if_neg free.1)

theorem served_enterResting (free : FreeFor .walker s) : Served (enterResting s) := by
  unfold enterResting
  split
  · exact served_startLook (free.setWk _)
  · exact free.walks trivial

theorem served_anchorAndLook (addr : Word) (free : FreeFor .walker s) : Served (anchorAndLook addr s) :=
  served_startLook (free.setWk _)

theorem served_frameBoundary (served : Served s) : Served (frameBoundary s) := by
  unfold frameBoundary
  split
  · rename_i rests
    exact served_startLook (served.walkerFree (by rw [rests]; trivial))
  · exact served

theorem served_hearLook (served : Served s) : Served (hearLook s) := by
  unfold hearLook
  split
  · rename_i rests
    exact served_startLook (served.walkerFree (by rw [rests]; trivial))
  · exact served
  · exact served.congr served.1 rfl fun g => by cases g <;> rfl

theorem served_reached (served : Served s) : Served (s.setWk s.wk.reached) := by
  unfold Walker.reached
  split
  · rename_i awaits
    exact (served.walkerFree (by rw [awaits]; trivial)).walks trivial
  · exact served

theorem served_takeLink (link : Word) (free : FreeFor .walker s) : Served (takeLink link s) := by
  unfold takeLink
  split
  · exact served_enterResting (free.setWk _)
  split
  · exact served_enterResting (free.setWk _)
  · exact FreeFor.issues (k := .blockRead) (free.setWk _) (if_neg free.1)

theorem served_takeBlock (addr : Word) (block : Vector Word 16) (free : FreeFor .walker s) : Served (takeBlock addr block s) := by
  unfold takeBlock
  split
  · exact FreeFor.issues (k := .takenWrite) (free.setWk _) (if_neg free.1)
  · exact served_enterResting free

theorem served_goOnByClass (h : Held) (free : FreeFor .walker s) : Served (goOnByClass h s) := by
  unfold goOnByClass
  split
  · exact served_answer h _ free
  · split <;> exact free.walks trivial

theorem served_moveOn (h : Held) (free : FreeFor .walker s) : Served (moveOn h s) := by
  unfold moveOn
  split
  · exact free.walks trivial
  · exact served_anchorAndLook _ free

theorem served_stopWalker (served : Served s) : Served (stopWalker s) := by
  have quiet : Served (s.setWk { s.wk with pendingLook := false }) := served.congr served.1 rfl fun g => by cases g <;> rfl
  have free (waitless : Waitless s.wk.state) : FreeFor .walker (s.setWk { s.wk with pendingLook := false }) :=
    (served.walkerFree waitless).setWk _
  unfold stopWalker
  dsimp only
  split
  · rename_i rests
    exact (free (by rw [rests]; trivial)).walks trivial
  · rename_i works
    exact served_answer _ _ (free (by rw [works]; trivial))
  · rename_i works
    split
    · exact served_answer _ _ (free (by rw [works]; trivial))
    · exact quiet
  · exact quiet

end

/-! ### The journal unit (R133 to R135) -/

section
variable {s : State}

theorem FreeFor.setJrn (free : FreeFor .journal s) (j : Journal) : FreeFor .journal (s.setJrn j) :=
  free.congr free.1 rfl fun g ne => by cases g <;> trivial

theorem Served.setJrn (served : Served s) {j : Journal} (writes : j.writes = s.jrn.writes) : Served (s.setJrn j) :=
  served.kept ⟨rfl, rfl, rfl, writes, rfl, rfl⟩

theorem served_pushJournal (w : JournalWrite) (served : Served s) : Served (pushJournal w s) := by
  unfold pushJournal
  dsimp only
  split
  · rename_i first
    have free : FreeFor .journal s := served.free (by rw [expects, first])
    exact FreeFor.issues (k := .journalWrite) (free.setJrn _) (by simp [expects, AccessKind.agent, first])
  · rename_i behind
    refine served.congr served.1 rfl fun g => ?_
    cases g <;> simp [expects, State.walkerAccess, behind]

theorem served_nextJournalWrite (free : FreeFor .journal s) : Served (nextJournalWrite s) := by
  unfold nextJournalWrite
  split
  · exact FreeFor.issues (k := .journalWrite) (free.setJrn _) rfl
  · exact (free.setJrn _).settles rfl

theorem served_openPage (a : Word) (rest : List Word) (served : Served s) : Served (openPage a rest s) :=
  served_pushJournal _ (served.setJrn rfl)

theorem served_closePage (cause : CloseCause) (served : Served s) : Served (closePage cause s) := by
  unfold closePage
  split
  · exact served
  · exact served_pushJournal _ (served.setJrn rfl)

theorem served_pushRecord (addr : Word) (words : List Word) (served : Served s) : Served (pushRecord addr words s) := by
  unfold pushRecord
  split
  · exact served_pushJournal _ (served_pushJournal _ served)
  · exact served_pushJournal _ served

theorem served_append (r : Record) (served : Served s) : Served (append r s) := by
  unfold append
  split
  · exact served
  · exact served_pushRecord _ _ (served.setJrn rfl)

theorem served_raise (c : Cause) (served : Served s) : Served (raise c s) := served.kept ⟨rfl, rfl, rfl, rfl, rfl, rfl⟩

theorem served_openOrStarve (served : Served s) : Served (openOrStarve s).2 := by
  unfold openOrStarve
  split
  · exact (served_openPage _ _ served).setJrn rfl
  · unfold starve
    split
    · exact served
    · exact served_raise _ (served.setJrn rfl)

theorem served_askRoom (r : Nat) (served : Served s) : Served (askRoom r s).2 := by
  unfold askRoom
  split
  · split
    · exact served.setJrn rfl
    · exact served_openOrStarve (served_closePage _ served)
  · exact served_openOrStarve served

theorem served_answerFlush (value : Word) (served : Served s) : Served (answerFlush value s) := by
  unfold answerFlush
  split
  · rename_i flushes
    exact served_answer _ _ (served.walkerFree (by rw [flushes]; trivial))
  · exact served

theorem served_writeCount (served : Served s) : Served (writeCount s) := by
  unfold writeCount
  split
  · exact served
  · split
    · exact served_pushJournal _ (served.setJrn rfl)
    · exact served

theorem served_journalFrameOver (served : Served s) : Served (journalFrameOver s) := by
  have told : Served (s.setJrn { s.jrn with frameOpen := false, closeMark := .none }) := served.setJrn rfl
  unfold journalFrameOver
  dsimp only
  split
  · exact served_writeCount told
  · exact served_closePage _ told
  · split
    · exact served_closePage _ told
    · exact served_answerFlush _ told

theorem served_lingerExpires (served : Served s) : Served (lingerExpires s) := by
  unfold lingerExpires
  dsimp only
  split
  · exact served
  · split
    · exact served.setJrn rfl
    · exact served_closePage _ (served.setJrn rfl)

theorem served_pageClosed (c : Closing) (served : Served s) : Served (pageClosed c s) := by
  unfold pageClosed
  dsimp only
  split
  · exact served_answerFlush _ (served_raise _ served)
  · exact served_raise _ served

end

/-! ### The converter and the spot unit (R47, R148, R150 to R154) -/

section
variable {s : State}

theorem FreeFor.setSpt (free : FreeFor .spot s) (x : SpotUnit) : FreeFor .spot (s.setSpt x) :=
  free.congr free.1 rfl fun g ne => by cases g <;> trivial

theorem Served.setSpt (served : Served s) {x : SpotUnit} (writes : x.writes = s.spt.writes) : Served (s.setSpt x) :=
  served.kept ⟨rfl, rfl, rfl, rfl, writes, rfl⟩

theorem agent_spotAccess (k : SpotWriteKind) : k.access.agent = .spot := by cases k <;> rfl

theorem served_pushSpot (w : SpotWrite) (served : Served s) : Served (pushSpot w s) := by
  have agent := agent_spotAccess w.kind
  unfold pushSpot
  dsimp only
  split
  · rename_i first
    have free : FreeFor .spot s := served.free (by rw [expects, first])
    refine FreeFor.issues (k := w.kind.access) (agent ▸ free.setSpt _) ?_
    rw [agent]
    simp [expects, first]
  · rename_i behind
    refine served.congr served.1 rfl fun g => ?_
    cases g <;> simp [expects, State.walkerAccess, behind]

theorem served_pushSpots : ∀ (ws : List SpotWrite) {s : State}, Served s → Served (pushSpots ws s)
  | [], _, served => served
  | w :: ws, _, served => served_pushSpots ws (served_pushSpot w served)

theorem served_nextSpotWrite (free : FreeFor .spot s) : Served (nextSpotWrite s) := by
  unfold nextSpotWrite
  split
  · rename_i w rest _
    have agent := agent_spotAccess w.kind
    refine FreeFor.issues (k := w.kind.access) (agent ▸ free.setSpt _) ?_
    rw [agent]
    rfl
  · exact (free.setSpt _).settles rfl

theorem grantSpot_writes (s : State) : (grantSpot s).spt.writes = s.spt.writes := by
  unfold grantSpot
  split <;> rfl

theorem requestSpot_writes (s : State) : (requestSpot s).spt.writes = s.spt.writes := by
  unfold requestSpot
  split
  · exact grantSpot_writes s
  · rfl

theorem releaseConverter_writes (s : State) : (releaseConverter s).spt.writes = s.spt.writes := by
  unfold releaseConverter
  dsimp only
  (repeat' split) <;> simp [grantSpot_writes]

theorem served_releaseConverter (served : Served s) : Served (releaseConverter s) :=
  served.kept ⟨by simp, by simp, by simp, by simp, releaseConverter_writes s, by simp⟩

theorem served_setBusy (p : PointId) (b : Bool) (served : Served s) : Served (s.setBusy p b) :=
  served.kept ⟨rfl, rfl, rfl, rfl, rfl, rfl⟩

theorem served_updatePoint (p : PointId) (x : Point) (served : Served s) : Served (s.updatePoint p x) :=
  served.kept ⟨by simp, by simp, by simp, by simp, by simp, by simp⟩

theorem served_setEng (e : ScanEngine) (served : Served s) : Served (s.setEng e) := served.kept ⟨rfl, rfl, rfl, rfl, rfl, rfl⟩

theorem served_setOut (o : OutputUnit) (served : Served s) : Served (s.setOut o) := served.kept ⟨rfl, rfl, rfl, rfl, rfl, rfl⟩

theorem served_endSpot (h : SpotHeld) (code : ResultCode) (value : Word) (params : List Word) (served : Served s) :
    Served (endSpot h code value params s) :=
  served_pushSpots _ ((served_setBusy h.point false served).setSpt rfl)

theorem served_orderSpotEnd (code : ResultCode) (served : Served s) : Served (orderSpotEnd code s) := by
  unfold orderSpotEnd
  split
  · exact served
  · exact served_endSpot _ _ _ _ (served.kept ⟨rfl, rfl, rfl, rfl, rfl, rfl⟩)
  · exact served.setSpt rfl
  · exact served
  · exact served

theorem served_abortSpotOn (p : PointId) (served : Served s) : Served (abortSpotOn p s) := by
  unfold abortSpotOn
  split
  · exact served_setBusy p false (served_orderSpotEnd _ served)
  · exact served

theorem served_acceptSpot (h : Held) (p : PointId) (m : Nat) (served : Served s) (waitless : Waitless s.wk.state) :
    Served (acceptSpot h p m s) := by
  refine served_anchorAndLook _ (Served.walkerFree (served.kept ⟨?_, ?_, ?_, ?_, ?_, ?_⟩) ?_) <;> simp [requestSpot_writes, waitless]

theorem served_acceptWaitingSpot (served : Served s) : Served (acceptWaitingSpot s) := by
  unfold acceptWaitingSpot
  split
  · rename_i works
    split
    · exact served_acceptSpot _ _ _ served (by rw [works]; trivial)
    · exact served
  · exact served

theorem served_notifyIf (flags : Byte) (served : Served s) : Served (notifyIf flags s) := by
  unfold notifyIf
  split
  · exact served_raise _ served
  · exact served

theorem served_spotClosed (served : Served s) : Served (spotClosed s) := by
  unfold spotClosed
  split
  · exact served_acceptWaitingSpot (served_notifyIf _ (served.setSpt rfl))
  · exact served

theorem served_snapshotDone (total : Nat) (served : Served s) : Served (snapshotDone total s) := by
  unfold snapshotDone
  split
  · rename_i awaits
    exact served_answer _ _ (served.walkerFree (by rw [awaits]; trivial))
  · exact served

theorem served_spotConversion (count : Half) (served : Served s) : Served (spotConversion count s) := by
  unfold spotConversion
  dsimp only
  split
  · exact served_endSpot _ _ _ _ (served_releaseConverter served)
  · split
    · exact served.kept ⟨rfl, rfl, rfl, rfl, rfl, rfl⟩
    · exact served_endSpot _ _ _ _ (served_releaseConverter served)
  · exact served

end

/-! ### The mirror writer (R5) -/

section
variable {s : State}

theorem FreeFor.setMir (free : FreeFor .mirror s) (m : Mirror) : FreeFor .mirror (s.setMir m) :=
  free.congr free.1 rfl fun g ne => by cases g <;> trivial

theorem Served.setMir (served : Served s) {m : Mirror} (writing : m.writing = s.mir.writing) : Served (s.setMir m) :=
  served.kept ⟨rfl, rfl, rfl, rfl, rfl, writing⟩

theorem served_issueImage (image : Image) (atStop : Bool) (free : FreeFor .mirror s) : Served (issueImage image atStop s) :=
  FreeFor.issues (k := .mirrorWrite) (free.setMir _) rfl

theorem agent_mirror (k : AccessKind) : k.agent = .mirror ↔ k = .mirrorWrite := by cases k <;> decide

/-- An image replaced in the port is its agent's access still, and no other's. -/
theorem accessesOf_replaceImage (image : Image) (w : MirrorWrite) (s : State) (g : Agent) :
    (replaceImage image w s).accessesOf g =
      if g = .mirror then (s.accessesOf g).map fun a => { a with data := image.words } else s.accessesOf g := by
  have agents : ((fun a : Access => decide (a.kind.agent = g)) ∘
      fun a => if a.kind = .mirrorWrite then { a with data := image.words } else a) = fun a => decide (a.kind.agent = g) := by
    funext a
    simp only [Function.comp]
    split <;> rfl
  simp only [State.accessesOf, replaceImage, State.setMir_port, State.setPort_port, List.filter_map, agents]
  split
  · rename_i mirror
    refine List.map_congr_left fun a ha => if_pos ?_
    rw [← agent_mirror, ← mirror]
    simpa using (List.mem_filter.1 ha).2
  · rename_i other
    refine (List.map_congr_left fun a ha => if_neg fun image => other ?_).trans (List.map_id _)
    have agent : a.kind.agent = g := by simpa using (List.mem_filter.1 ha).2
    rw [← agent, agent_mirror, image]

theorem served_replaceImage (image : Image) {w : MirrorWrite} (served : Served s) (writes : s.mir.writing = some w) :
    Served (replaceImage image w s) := by
  refine ⟨served.1, fun g => ?_⟩
  rw [accessesOf_replaceImage, served.2]
  cases g
  case mirror => simp [expects, writes, replaceImage]
  all_goals rfl

theorem served_placeImage (served : Served s) : Served (placeImage s) := by
  refine served.perm served.1 ?_ fun g => by cases g <;> rfl
  have perm := List.filter_append_perm (fun a : Access => decide (a.kind = .mirrorWrite)) s.port
  simpa [placeImage] using perm

theorem served_takeImage (image : Image) (atStop : Bool) (served : Served s) : Served (takeImage image atStop s) := by
  have waits {u : State} (hu : Served u) : Served (waitImage image u) := hu.setMir rfl
  unfold takeImage
  split
  · rename_i none
    exact served_issueImage image atStop (served.free (by rw [expects, none]))
  · rename_i w writes
    split
    · exact waits served
    · exact waits served
    · exact served_replaceImage image served writes
    · have ticked : Served (s.setTick (s.tick + 1)) := served.kept ⟨rfl, rfl, rfl, rfl, rfl, rfl⟩
      dsimp only
      split
      · exact waits (served_placeImage ticked)
      · exact served_replaceImage image ticked writes

theorem takeImage_parts (image : Image) (atStop : Bool) (s : State) :
    (takeImage image atStop s).ctl = s.ctl ∧ (takeImage image atStop s).wk = s.wk ∧ (takeImage image atStop s).jrn = s.jrn ∧
    (takeImage image atStop s).spt = s.spt := by
  unfold takeImage
  (repeat' split) <;> simp [issueImage, waitImage, replaceImage, placeImage]

theorem served_capture (atStop : Bool) (served : Served s) : Served (capture atStop s) := by
  obtain ⟨ctl, wk, jrn, spt⟩ := takeImage_parts (captureImage s) atStop s
  exact (served_takeImage (captureImage s) atStop served).kept ⟨rfl, ctl.symm, wk.symm, by rw [jrn]; rfl, by rw [spt]; rfl, rfl⟩

theorem FreeFor.raisedIf {g : Agent} (free : FreeFor g s) (b : Bool) (c : Cause) : FreeFor g (if b then raise c s else s) := by
  cases b
  · exact free
  · exact free.congr free.1 rfl fun g' _ => by cases g' <;> rfl

theorem served_nextImage (free : FreeFor .mirror s) : Served (nextImage s) := by
  unfold nextImage
  dsimp only
  split
  · rename_i none
    exact free.settles (by rw [expects, none])
  · rename_i w _
    have written := (free.setMir { s.mir with writing := none }).raisedIf w.atStop .stopped
    split
    · split
      · exact served_issueImage _ _ written
      · exact written.settles (by split <;> rfl)
    · exact written.settles (by split <;> rfl)

end

end Sys2Proof.Machine.PortAgents
end

section
/-! SUPPORT. 01_the_exchange_area_and_the_memory_port.md, proved: every step leaves each agent at most the one access in the
port that it waits for (R7, R9). -/

namespace Sys2Proof.Machine.OneAccess

open FrameEvents PortAgents ModeKept

/-! ### The requests (R30 to R32, R121) -/

section
variable {s : State}

/-- A walker that waits for no access answers the block it holds. -/
theorem served_answered (h : Held) (a : Answer) (served : Served s) (waitless : Waitless s.wk.state) : Served (answer h a s) :=
  served_answer h a (served.walkerFree waitless)

theorem served_applySnapshot (h : Held) (buffer : Word) (set : PointSet) (served : Served s) (waitless : Waitless s.wk.state) :
    Served (applySnapshot h buffer set s) := by
  unfold applySnapshot
  split
  · exact served_answered h _ served waitless
  · have handed (job : SnapshotJob) : Served (s.setSpt { s.spt with snapshot := some job }) := served.setSpt rfl
    exact served_pushSpots _ (((handed _).walkerFree waitless).walksTo trivial)

theorem served_applyBoundary (h : Held) (r : Request) (served : Served s) (waitless : Waitless s.wk.state) :
    Served (applyBoundary h r s) := by
  cases r with
  | configPoint p cfg =>
    exact served_answered h _ (served_updatePoint p _ (served_abortSpotOn p served)) (by simpa using waitless)
  | releasePoint p =>
    exact served_answered h _ (served_setEng _ (served_updatePoint p _ (served_abortSpotOn p served))) (by simpa using waitless)
  | configGroup i g =>
    simp only [applyBoundary, applyConfigGroup]
    split
    · exact served_answered h _ served waitless
    · exact served_answered h _ (served_setEng _ served) waitless
  | setTiming t => exact served_answered h _ ((served_setEng _ served).setJrn rfl) waitless
  | recalibrate set => exact served_answered h _ (served_setEng _ served) waitless
  | reseed set => exact served_answered h _ (served_setEng _ served) waitless
  | snapshot buffer set => exact served_applySnapshot h buffer set served waitless
  | mark tag =>
    simp only [applyBoundary, applyMark]
    split
    · exact served_answered h _ served waitless
    · exact served_answered h _ (served_setEng _ served) waitless
  | _ => exact served

/-- A boundary request not yet applied holds the walker in a state in which it waits for no access. -/
theorem waitless_of_awaits {h : Held} {r : Request} (awaits : s.Awaits h r) : Waitless s.wk.state := by
  obtain ⟨passed | waits, -⟩ := awaits
  · rw [passed]
    trivial
  · rw [waits]
    trivial

theorem served_applyWaiting (served : Served s) : Served (applyWaiting s) := by
  unfold applyWaiting
  split
  · rename_i found
    exact served_applyBoundary _ _ served (waitless_of_awaits (State.awaits_of_found found))
  · exact served

theorem served_applySpot (h : Held) (p : PointId) (m : Nat) (served : Served s) (waitless : Waitless s.wk.state) :
    Served (applySpot h p m s) := by
  have refused (code : ResultCode) : Served (answer h (Answer.refused code) s) := served_answered h _ served waitless
  unfold applySpot
  split
  · exact refused _
  split
  · exact refused _
  · exact refused _
  · split
    · exact served_acceptSpot h p m served waitless
    · exact served_orderSpotEnd _ ((served.walkerFree waitless).walks trivial)

theorem served_applyFlushJournal (h : Held) (served : Served s) (waitless : Waitless s.wk.state) :
    Served (applyFlushJournal h s) := by
  unfold applyFlushJournal
  split
  · have marked : Served (s.setJrn { s.jrn with closeMark := .flush }) := served.setJrn rfl
    exact (marked.walkerFree waitless).walksTo trivial
  split
  · exact served_closePage _ ((served.walkerFree waitless).walks trivial)
  · exact served_answered h _ served waitless

theorem served_workingStep {f : Held → Request → Option State} (served : Served s)
    (done : ∀ h r t, Waitless s.wk.state → f h r = some t → Served t) : Served (workingStep f s) :=
  workingStep_ind served (fun _ n ht => served_receiveTogether ht n) fun h r t works e => by
    obtain ⟨unit, -⟩ := works
    exact done h r t (by rw [unit]; trivial) e

/-- A boundary kind's command carries out the request that the walker holds, and nothing else. -/
theorem served_boundaryStep {f : Held → Request → Option State} (served : Served s)
    (applies : ∀ h r t, f h r = some t → applyBoundary h r s = t) : Served (boundaryStep f s) :=
  boundaryStep_ind served (fun _ n ht => served_receiveTogether ht n) (fun _ => served_reached served)
    fun h r t _ awaits e => applies h r t e ▸ served_applyBoundary h r served (waitless_of_awaits awaits)

end

/-! ### The scan engine's events (R112, R119, R42, R123) -/

section
variable {s : State}

theorem served_runSlots (ps : List PointId) (served : Served s) : Served (runSlots ps s) := by
  rcases runSlots_wk s ps with same | reached
  · exact served.kept ⟨by simp, by simp, same, by simp, by simp, by simp⟩
  · exact (served_reached served).kept ⟨by simp, by simp, by simp [reached], by simp, by simp, by simp⟩

theorem served_reportGap (served : Served s) : Served (reportGap s) := by
  unfold reportGap
  split
  · exact served
  · exact served_setEng _ (served_append _ served)

theorem served_reportMark (served : Served s) : Served (reportMark s) := by
  unfold reportMark
  split
  · exact served
  · exact served_setEng _ (served_append _ served)

theorem served_beginFrame (served : Served s) : Served (beginFrame s) :=
  served_runSlots _ (served_reportMark (served_reportGap (served_reached (served_setEng _ served))))

theorem served_skipFrame (served : Served s) : Served (skipFrame s) :=
  served_frameBoundary (served_capture false (served_setEng _ served))

theorem served_admissionCheck (served : Served s) : Served (admissionCheck s) := by
  have asked := served_askRoom s.eng.reservation served
  unfold admissionCheck
  generalize askRoom s.eng.reservation s = answer at asked ⊢
  obtain ⟨room, t⟩ := answer
  cases room
  · exact served_skipFrame asked
  · exact served_beginFrame asked

theorem served_expiriesInFrame (n : Nat) (served : Served s) : Served (expiriesInFrame n s) :=
  served.kept ⟨by simp, by simp, by simp, by simp, by simp, by simp⟩

theorem served_expiriesCounted (n : Nat) (served : Served s) : Served (expiriesCounted n s) :=
  served_setEng _ (served_expiriesInFrame n served)

theorem served_leaveScanning (x : EndExpiries) (served : Served s) : Served (leaveScanning x s) := by
  have judged := served_expiriesInFrame x.judged (served_setEng s.eng.judge served)
  have told := served_expiriesInFrame x.told (served_journalFrameOver judged)
  have merged : Served (addMerged _) := served_setEng _ told
  have captured := served_expiriesCounted x.captured (served_capture false (served_expiriesCounted x.counted merged))
  exact served_setEng _ (served_expiriesCounted x.announced (served_frameBoundary captured))

theorem served_kept : KeptByFrames Served where
  begins _ served := served_admissionCheck (served_setEng _ served)
  resumes _ _ served := served_admissionCheck (served_setEng _ served)
  counts _ served := served_setEng _ served
  idles _ served := served_setEng _ served
  leaves x served := served_leaveScanning x served
  applies served := served_applyWaiting served
  reaches served := served_reached served

theorem served_cutEnd (served : Served s) : Served (cutEnd s) :=
  served_applyWaiting (served_setEng _ (served_journalFrameOver served))

theorem served_measurePoint (p : PointId) (c : Half) (served : Served s) : Served (measurePoint p c s) := by
  have raises (k : Option TripKind) {u : State} (hu : Served u) : Served (raiseTrip p k u) :=
    hu.kept ⟨by simp, by simp, by simp, by simp, by simp, by simp⟩
  have appends (r : Option Record) {u : State} (hu : Served u) : Served (appendSome r u) := by
    cases r with
    | none => exact hu
    | some r => exact served_append r hu
  exact raises _ (appends _ (served_updatePoint p _ served))

theorem served_scanConversion (c : Half) (ends : List EndExpiries) (served : Served s) : Served (scanConversion c ends s) := by
  unfold scanConversion
  dsimp only
  split
  · rename_i p _ _
    have released := served_releaseConverter (served_measurePoint p c served)
    split
    · exact served_kept.finishFrame _ _ _ (served_runSlots _ released)
    · exact served_cutEnd released
    · exact released
    · exact released
  · exact served

theorem served_stopScan (served : Served s) : Served (stopScan s) := by
  have stopped := served_setEng { s.eng with frameTimer := none } served
  have cut : Served (cutEnd (withdrawScan (s.setEng { s.eng with frameTimer := none }))) :=
    served_cutEnd (stopped.kept ⟨rfl, rfl, rfl, rfl, rfl, rfl⟩)
  unfold stopScan
  dsimp only
  split
  · exact served_setEng _ stopped
  · split
    · exact served_setEng _ stopped
    · exact cut
    · exact cut
  · exact stopped
  · exact stopped

/-- The control unit's part of an access is AREA_BASE, and whether it loads. -/
theorem served_setCtl (served : Served s) {c : ControlUnit} (op : c.op ≠ .loading) (area : c.areaBase = s.ctl.areaBase) :
    Served (s.setCtl c) := by
  refine served.congr op rfl fun g => ?_
  cases g <;> simp [expects, State.walkerAccess, area, op, served.1]

theorem served_stopOrder (served : Served s) : Served (stopOrder s) :=
  served_stopWalker (served_orderSpotEnd _ (served_stopScan (served_setCtl served nofun rfl)))

theorem served_scanEvent {f : State → State} (serves : ∀ {x}, Served x → Served (f x)) (served : Served s) :
    Served (scanEvent f s) := by
  have begun : Served s.eventBegun := served.setMir rfl
  exact (served_receiveTogether (serves begun) _).setMir rfl

end

/-! ### The accesses that complete (R24 to R26, R18, R152, R156, R133, R5) -/

section
variable {s : State}

theorem served_linkRead (link : Word) (served : Served s) : Served (linkRead link s) := by
  unfold linkRead
  split
  · split
    · rename_i serving
      have free : FreeFor .walker (retire s) := retire_free served serving
      split
      · exact free.walks trivial
      · exact served_takeLink link free
    · exact served
  · exact served

theorem served_blockRead (block : Vector Word 16) (served : Served s) : Served (blockRead block s) := by
  unfold blockRead
  split
  · split
    · rename_i serving
      have free : FreeFor .walker (retire s) := retire_free served serving
      split
      · exact free.walks trivial
      · exact served_takeBlock _ block free
    · exact served
  · exact served

theorem served_takenWritten (served : Served s) : Served (takenWritten s) := by
  unfold takenWritten
  split
  · split
    · rename_i serving
      exact served_goOnByClass _ (retire_free served serving)
    · exact served
  · exact served

theorem served_resultWritten (served : Served s) : Served (resultWritten s) := by
  unfold resultWritten
  split
  · split
    · rename_i serving
      have free : FreeFor .walker (retire s) := retire_free served serving
      exact FreeFor.issues (k := .closedWrite) (free.setWk _) (if_neg free.1)
    · exact served
  · exact served

theorem served_closedWritten (served : Served s) : Served (closedWritten s) := by
  unfold closedWritten
  split
  · split
    · rename_i serving
      have free : FreeFor .walker (retire s) := retire_free served serving
      refine served_moveOn _ ?_
      unfold notifyIf
      exact free.raisedIf _ _
    · exact served
  · exact served

theorem served_spotWritten (served : Served s) : Served (spotWritten s) := by
  unfold spotWritten
  dsimp only
  split
  · split
    · rename_i serving
      have next := served_nextSpotWrite (retire_free served serving)
      refine served_receiveTogether ?_ _
      split
      · exact served_spotClosed next
      · exact next
    · exact served
  · exact served

theorem served_snapshotWritten (served : Served s) : Served (snapshotWritten s) := by
  unfold snapshotWritten
  dsimp only
  split
  · split
    · rename_i serving
      have next := served_nextSpotWrite (retire_free served serving)
      refine served_receiveTogether ?_ _
      split
      · exact served_snapshotDone _ (next.setSpt rfl)
      · exact next.setSpt rfl
    · exact served
  · exact served

theorem served_journalWritten (served : Served s) : Served (journalWritten s) := by
  unfold journalWritten
  dsimp only
  split
  · split
    · rename_i serving
      have next := served_nextJournalWrite (retire_free served serving)
      refine served_receiveTogether ?_ _
      split
      · exact served_pageClosed _ next
      · exact next
    · exact served
  · exact served

theorem served_mirrorWritten (served : Served s) : Served (mirrorWritten s) := by
  unfold mirrorWritten
  split
  · rename_i serving
    exact served_nextImage (retire_free served serving)
  · exact served

end

/-! ### The port between the commands (R9) -/

section
variable {s : State}

/-- With no access in the port no agent waits for one. -/
theorem portOk_of_empty (port : s.port = []) (during : s.mir.during = .between) (waits : ∀ g, expects s g = []) : s.PortOk :=
  (portOk_iff s).2 ⟨during, fun g => by rw [waits, State.accessesOf, port, List.filter_nil]⟩

/-- In OFF and in FAULTED the port holds no access, and the units hold nothing. -/
theorem portOk_of_atReset (op : s.ctl.op ≠ .loading) (units : s.UnitsAtReset) (port : s.port = []) : s.PortOk := by
  obtain ⟨wk, -, -, jrn, spt, mir, -⟩ := units
  refine portOk_of_empty port (by rw [mir]; rfl) fun g => ?_
  cases g <;> simp [expects, State.walkerAccess, op, wk, jrn, spt, mir, State.reset, Journal.reset]

theorem portOk_memoryFault (kind : FaultKind) (cause : Cause) {a : Access} {rest : List Access} (port : s.port = a :: rest) :
    (memoryFault kind cause s).PortOk := by
  have empty : (memoryFault kind cause s).port = [] := by
    simp only [memoryFault, port]
    exact abandonAccesses_port _ _
  refine portOk_of_empty empty (by simp [memoryFault, port, faultUnits]) fun g => ?_
  cases g
  case walker => simp [expects, State.walkerAccess, memoryFault, port, faultUnits]
  all_goals simp [expects, memoryFault, port, faultUnits]

theorem portOk_racedFault (kind : FaultKind) (cause : Cause) (race : Option FaultRace) (ok : s.PortOk) :
    (racedFault kind cause race s).PortOk := by
  unfold racedFault
  split
  · exact ok
  · rename_i port
    exact portOk_memoryFault kind cause port
  · rename_i port
    exact portOk_memoryFault kind cause port

/-- Outside LOADING the port is as `Served` says. -/
theorem served_of_portOk (op : s.ctl.op ≠ .loading) (ok : s.PortOk) : Served s := ⟨op, ((portOk_iff s).1 ok).2⟩

theorem portOk_of_agents (served : Served s) (during : s.mir.during = .between) : s.PortOk := (portOk_iff s).2 ⟨during, served.2⟩

/-- What serves the agents outside LOADING, and changes nothing in LOADING, keeps the port. -/
theorem portOk_of_served {t : State} (ok : s.PortOk) (still : s.ctl.op = .loading → t = s) (serves : Served s → Served t)
    (during : t.mir.during = s.mir.during) : t.PortOk := by
  by_cases op : s.ctl.op = .loading
  · exact (still op).symm ▸ ok
  · exact portOk_of_agents (serves (served_of_portOk op ok)) (during.trans ((portOk_iff s).1 ok).1)

/-- In LOADING the units are at reset and the port holds the header read (R170, R2). -/
theorem still_of_keepsMode {t : State} (mode : s.ModeCoherent) (kept : KeepsMode s t) (op : s.ctl.op = .loading) : t = s := by
  rw [State.ModeCoherent, op] at mode
  obtain ⟨units, port⟩ := mode
  exact kept.silent (atRest_of_unitsAtReset units) (silent_of_unitsAtReset units (by simp [port]))

theorem portOk_of_kept {t : State} (ok : s.PortOk) (mode : s.ModeCoherent) (kept : KeepsMode s t) (serves : Served s → Served t)
    (during : t.mir.during = s.mir.during) : t.PortOk :=
  portOk_of_served ok (still_of_keepsMode mode kept) serves during

/-! ### CONTROL and AREA_BASE writes, the header read and the entry to STOPPED (R178, R1, R2, R173) -/

/-- Outside LOADING a change of the control unit that keeps AREA_BASE is no agent's; in LOADING it keeps the operating state too. -/
theorem portOk_setCtl {c : ControlUnit} (ok : s.PortOk) (op : c.op = s.ctl.op) (area : c.areaBase = s.ctl.areaBase) :
    (s.setCtl c).PortOk := by
  obtain ⟨during, served⟩ := (portOk_iff s).1 ok
  refine (portOk_iff _).2 ⟨during, fun g => (served g).trans ?_⟩
  cases g <;> simp [expects, State.walkerAccess, op, area]

theorem portOk_areaBaseWrite (data : Word) (ok : s.PortOk) (mode : s.ModeCoherent) : (areaBaseWrite data s).PortOk := by
  unfold areaBaseWrite
  split
  · exact ok
  split
  · rename_i off
    rw [State.ModeCoherent, off] at mode
    obtain ⟨units, port⟩ := mode
    exact portOk_of_atReset (by simp [off]) units port
  · exact portOk_setCtl ok rfl rfl

theorem portOk_acceptControl (look : Bool) (ok : s.PortOk) : (acceptControl look s).PortOk := by
  have accepted : (s.setCtl { s.ctl with refusedWrite := false }).PortOk := portOk_setCtl ok rfl rfl
  unfold acceptControl
  dsimp only
  split
  · rename_i heard
    refine portOk_of_served accepted (fun loads => ?_) served_hearLook (by simp)
    exact absurd loads (by simp [heard.2])
  · exact accepted

theorem portOk_startLoading (op : s.ctl.op = .off) (mode : s.ModeCoherent) : (startLoading s).PortOk := by
  rw [State.ModeCoherent, op] at mode
  obtain ⟨⟨-, -, -, jrn, spt, mir, -⟩, port⟩ := mode
  refine (portOk_iff _).2 ⟨by simp [mir, State.reset], fun g => ?_⟩
  rw [OperatingStates.startLoading_eq, port]
  cases g <;> simp [State.accessesOf, AccessKind.agent, expects, State.walkerAccess, jrn, spt, mir, State.reset, Journal.reset]

theorem portOk_resumeRunning (op : s.ctl.op = .stopped) (ok : s.PortOk) (mode : s.ModeCoherent) : (resumeRunning s).PortOk := by
  rw [State.ModeCoherent, op] at mode
  obtain ⟨-, idle, -⟩ := mode
  have resumed : Served ((s.setCtl { s.ctl with op := .running, run := true, refusedWrite := false }).setEng
      { s.eng with frameTimer := some s.eng.period, frameState := .waiting }) :=
    served_setEng _ (served_setCtl (served_of_portOk (by simp [op]) ok) nofun rfl)
  have free := resumed.walkerFree (by simp [Waitless, idle])
  exact portOk_of_agents (served_enterResting (free.setWk _)) (((portOk_iff s).1 ok).1)

theorem portOk_changeRun (ok : s.PortOk) (mode : s.ModeCoherent) : (changeRun s).PortOk := by
  cases op : s.ctl.op with
  | off =>
    rw [OperatingStates.changeRun_off op]
    exact portOk_startLoading op mode
  | running =>
    rw [OperatingStates.changeRun_running op]
    exact portOk_of_served ok (fun loads => by simp [op] at loads) served_stopOrder (by simp)
  | stopped =>
    rw [OperatingStates.changeRun_stopped op]
    exact portOk_resumeRunning op ok mode
  | loading | stopping | faulted =>
    rw [OperatingStates.changeRun_refused (by simp [op])]
    exact portOk_setCtl ok rfl rfl

theorem portOk_controlWrite (data : Word) (ok : s.PortOk) (mode : s.ModeCoherent) : (controlWrite data s).PortOk := by
  unfold controlWrite
  split
  · exact ok
  split
  · exact portOk_of_atReset nofun (OperatingStates.softwareReset_unitsAtReset s) rfl
  split
  · exact portOk_acceptControl _ ok
  · exact portOk_receiveTogether (portOk_changeRun ok mode) _

theorem portOk_headerRead (half : Vector Word 8) (ok : s.PortOk) (mode : s.ModeCoherent) : (headerRead half s).PortOk := by
  unfold headerRead
  split
  · rename_i loads
    rw [State.ModeCoherent, loads.2] at mode
    obtain ⟨units, port⟩ := mode
    rw [RequestChain.retire_read port]
    split
    · obtain ⟨-, -, -, jrn, spt, mir, -⟩ := units
      refine portOk_of_empty rfl (by simp [mir, State.reset]) fun g => ?_
      cases g <;> simp [enterRunning, expects, State.walkerAccess, jrn, spt, mir, State.reset, Journal.reset]
    · exact portOk_of_atReset nofun units rfl
  · exact ok

theorem portOk_enterStopped (ok : s.PortOk) : (enterStopped s).PortOk := by
  by_cases enters : s.ctl.op = .stopping ∧ s.settled = true
  · obtain ⟨op, settled⟩ := enters
    obtain ⟨-, -, -, -, -, -, -, -, writing⟩ := (OperatingStates.settled_iff s).1 settled
    have stopped : Served (s.setCtl { s.ctl with op := .stopped }) :=
      served_setCtl (served_of_portOk (by simp [op]) ok) nofun rfl
    rw [OperatingStates.enterStopped_settled op settled]
    exact portOk_of_agents (served_issueImage _ true (stopped.free (by simp [expects, writing]))) ((portOk_iff s).1 ok).1
  · rw [enterStopped, if_neg enters]
    exact ok

/-! ### Every step -/

/-- An event of the scan engine with its timer stopped and the converter FREE changes nothing. -/
theorem portOk_scanEvent {f : State → State} (ok : s.PortOk) (mode : s.ModeCoherent)
    (still : s.eng.frameTimer = none → s.arb.Idle → f s.eventBegun = s.eventBegun)
    (serves : ∀ {x}, Served x → Served (f x)) : (scanEvent f s).PortOk := by
  refine portOk_of_served ok (fun op => ?_) (served_scanEvent serves) rfl
  rw [State.ModeCoherent, op] at mode
  obtain ⟨⟨-, eng, arb, -⟩, -⟩ := mode
  exact FrameTiming.scanEvent_engine (e := s.eng) (still (by rw [eng]; rfl) (OperatingStates.idle_of_reset arb))

/-! The attention unit and the read data are no agent's. -/

theorem portOk_attnEnableWrite (data : Word) (ok : s.PortOk) : (attnEnableWrite data s).PortOk := by
  unfold attnEnableWrite
  split <;> exact ok

theorem portOk_attentionRead (ok : s.PortOk) : (attentionRead s).PortOk := by
  unfold attentionRead
  split <;> exact ok

theorem portOk_serviceWrite (ok : s.PortOk) : (serviceWrite s).PortOk := by
  unfold serviceWrite
  (repeat' split) <;> exact ok

theorem nextImage_during (s : State) : (nextImage s).mir.during = s.mir.during := by
  unfold nextImage
  dsimp only
  (repeat' split) <;> simp [issueImage]

theorem mirrorWritten_during (s : State) : (mirrorWritten s).mir.during = s.mir.during := by
  unfold mirrorWritten
  split
  · exact (nextImage_during _).trans (by simp)
  · rfl

/-- The accesses of the other agents leave the mirror writer alone. -/
theorem completions_mir (s : State) :
    (∀ link, (linkRead link s).mir = s.mir) ∧ (∀ block, (blockRead block s).mir = s.mir) ∧ (takenWritten s).mir = s.mir ∧
    (resultWritten s).mir = s.mir ∧ (closedWritten s).mir = s.mir ∧ (spotWritten s).mir = s.mir ∧
    (snapshotWritten s).mir = s.mir ∧ (journalWritten s).mir = s.mir := by
  simp only [linkRead, blockRead, takenWritten, resultWritten, closedWritten, spotWritten, snapshotWritten, journalWritten]
  refine ⟨fun _ => ?_, fun _ => ?_, ?_, ?_, ?_, ?_, ?_, ?_⟩ <;> (repeat' split) <;> simp

theorem workingStep_during {f : Held → Request → Option State} (done : ∀ h r t, f h r = some t → t.mir.during = s.mir.during) :
    (workingStep f s).mir.during = s.mir.during :=
  workingStep_ind (P := fun x => x.mir.during = s.mir.during) rfl (fun _ _ ht => ht) fun h r t _ e => done h r t e

/-- A boundary kind's command carries out the request that the walker holds, and nothing else. -/
theorem boundaryStep_during {f : Held → Request → Option State} (applies : ∀ h r t, f h r = some t → applyBoundary h r s = t) :
    (boundaryStep f s).mir.during = s.mir.during :=
  boundaryStep_ind (P := fun x => x.mir.during = s.mir.during) rfl (fun _ _ ht => ht) (fun _ => rfl) fun h r t _ _ e => by
    simp [← applies h r t e]

theorem portOk_boundaryStep {f : Held → Request → Option State} (ok : s.PortOk) (mode : s.ModeCoherent)
    (applies : ∀ h r t, f h r = some t → applyBoundary h r s = t) : (boundaryStep f s).PortOk :=
  portOk_of_kept ok mode (keepsMode_boundaryStep applies) (fun served => served_boundaryStep served applies)
    (boundaryStep_during applies)

end

theorem served_applySetOutputs {s : State} (h : Held) (lines : BitVec 8) (levels : Vector Bool 8) (served : Served s)
    (waitless : Waitless s.wk.state) : Served (applySetOutputs h lines levels s) := by
  unfold applySetOutputs
  split
  · exact served_answered h _ served waitless
  · exact served_answered h _ (served_setOut _ served) waitless

theorem served_applyGivePages {s : State} (h : Held) (pages : List Word) (served : Served s) (waitless : Waitless s.wk.state) :
    Served (applyGivePages h pages s) := by
  unfold applyGivePages
  split
  · exact served_answered h _ served waitless
  · exact served_answered h _ (served.setJrn rfl) waitless

/-- A request in WORKING, carried out, serves the agents and leaves the mirror writer alone. -/
theorem exec_working_serves {c : Instr} (s : State)
    (kind : c ∈ [.configOutput, .setOutputs, .givePages, .reclaimPages, .flushJournal, .spot]) :
    ∃ t, exec c s = .next t ∧ (Served s → Served t) ∧ t.mir.during = s.mir.during := by
  simp only [List.mem_cons, List.not_mem_nil, or_false] at kind
  rcases kind with rfl | rfl | rfl | rfl | rfl | rfl <;>
    refine ⟨_, rfl, fun served => served_workingStep served fun h r t waitless e => ?_, workingStep_during fun h r t e => ?_⟩ <;>
    split at e <;> cases e
  · exact served_answered _ _ (served_setOut _ served) waitless
  · simp
  · exact served_applySetOutputs _ _ _ served waitless
  · simp
  · exact served_applyGivePages _ _ served waitless
  · simp
  · exact served_answered _ _ (served.setJrn rfl) waitless
  · simp
  · exact served_applyFlushJournal _ served waitless
  · simp
  · exact served_applySpot _ _ _ served waitless
  · simp

theorem exec_working_portOk {c : Instr} {s : State}
    (kind : c ∈ [.configOutput, .setOutputs, .givePages, .reclaimPages, .flushJournal, .spot]) (ok : s.PortOk)
    (mode : s.ModeCoherent) : ∃ t, exec c s = .next t ∧ t.PortOk := by
  obtain ⟨t, run, keeps⟩ := exec_working_keepsMode s kind
  obtain ⟨u, run', serves, during⟩ := exec_working_serves s kind
  obtain rfl : t = u := Host.Outcome.next.inj (run.symm.trans run')
  exact ⟨t, run, portOk_of_kept ok mode keeps serves during⟩

/-- Every command leaves each agent the access that it waits for: outside LOADING by its own operations, and in LOADING because
the header read alone has anything to do there. -/
theorem exec_portOk (c : Instr) {s : State} (mode : s.ModeCoherent) (ok : s.PortOk) : ∃ t, exec c s = .next t ∧ t.PortOk := by
  have kept {t : State} (keeps : KeepsMode s t) (serves : Served s → Served t) (mir : t.mir = s.mir) : t.PortOk :=
    portOk_of_kept ok mode keeps serves (by rw [mir])
  obtain ⟨link, block, taken, result, closed, spot, snapshot, journal⟩ := completions_mir s
  cases c
  case hardwareReset low => exact ⟨_, rfl, portOk_of_atReset nofun (OperatingStates.hardwareReset_unitsAtReset low s) rfl⟩
  case softwareReset data | runSet data | runClear data | resume data | look data | acceptedControlWrite data =>
    exact ⟨_, rfl, portOk_controlWrite data ok mode⟩
  case areaBaseWrite data => exact ⟨_, rfl, portOk_areaBaseWrite data ok mode⟩
  case attnEnableWrite data => exact ⟨_, rfl, portOk_attnEnableWrite data ok⟩
  case attentionRead => exact ⟨_, rfl, portOk_attentionRead ok⟩
  case serviceWrite => exact ⟨_, rfl, portOk_serviceWrite ok⟩
  case ignoredRegisterWrite | lateResponse => exact ⟨_, rfl, ok⟩
  case resetnRise => exact ⟨_, rfl, portOk_setCtl ok rfl rfl⟩
  case headerReadComplete half => exact ⟨_, rfl, portOk_headerRead half ok mode⟩
  case errorResponse race | responseLimitExpiry race => exact ⟨_, rfl, portOk_racedFault _ _ race ok⟩
  case enterStopped => exact ⟨_, rfl, portOk_enterStopped ok⟩
  case frameTimerExpiry ends =>
    exact ⟨_, rfl, portOk_scanEvent ok mode (fun timer _ => FrameTiming.frameExpiry_stopped (s := s.eventBegun) timer ends)
      fun served => served_kept.frameExpiry served ends⟩
  case scanConversionComplete count ends =>
    exact ⟨_, rfl, portOk_scanEvent ok mode
      (fun _ idle => OperatingModes.scanConversion_ungranted (s := s.eventBegun) idle count ends) (served_scanConversion count ends)⟩
  case linkReadComplete w => exact ⟨_, rfl, kept (keepsMode_linkRead w s) (served_linkRead w) (link w)⟩
  case blockReadComplete b => exact ⟨_, rfl, kept (keepsMode_blockRead b s) (served_blockRead b) (block b)⟩
  case takenWriteComplete => exact ⟨_, rfl, kept (keepsMode_takenWritten s) served_takenWritten taken⟩
  case resultWriteComplete => exact ⟨_, rfl, kept (keepsMode_resultWritten s) served_resultWritten result⟩
  case closedWriteComplete => exact ⟨_, rfl, kept (keepsMode_closedWritten s) served_closedWritten closed⟩
  case spotWriteComplete => exact ⟨_, rfl, kept (keepsMode_spotWritten s) served_spotWritten spot⟩
  case snapshotRecordWriteComplete => exact ⟨_, rfl, kept (keepsMode_snapshotWritten s) served_snapshotWritten snapshot⟩
  case journalWriteComplete => exact ⟨_, rfl, kept (keepsMode_journalWritten s) served_journalWritten journal⟩
  case mirrorWriteComplete =>
    exact ⟨_, rfl, portOk_of_kept ok mode (keepsMode_mirrorWritten s) served_mirrorWritten (mirrorWritten_during s)⟩
  case lingerExpiry => exact ⟨_, rfl, kept (keepsMode_lingerExpires s) served_lingerExpires (by simp)⟩
  case spotSubconversionComplete count =>
    exact ⟨_, rfl, kept (keepsMode_spotConversion count s) (fun served => served_receiveTogether (served_spotConversion count served) _)
      (by simp)⟩
  case configOutput | setOutputs | givePages | reclaimPages | flushJournal | spot =>
    exact exec_working_portOk (by simp) ok mode
  case configPoint | releasePoint | configGroup | setTiming | recalibrate | reseed | snapshot | mark =>
    refine ⟨_, rfl, portOk_boundaryStep ok mode fun h r t e => ?_⟩
    split at e <;> cases e
    rfl

/-- Settles O59: the idle step changes nothing, and every other step is a command's. -/
theorem oneAccessAnAgent : Obligations.OneAccessAnAgent := by
  intro s t _ mode ok run
  cases queue : s.pending with
  | nil =>
    rw [Steps.step_idle queue] at run
    cases run
    exact ok
  | cons c rest =>
    obtain ⟨u, runs, stays⟩ := exec_portOk c (s := s.setPending rest) mode ok
    rw [Steps.step_front queue, runs] at run
    cases run
    exact stays

end Sys2Proof.Machine.OneAccess
end
